-- ==== Sys2Proof/Word.lean ====
section
/-! DEFINITION. The words of QRSB: a byte of a buffer, a 32-bit register or command word, an 18-bit byte address
of the host's window (spec/10 §2, spec/20 R100). -/

namespace Sys2Proof

/-- A byte of a buffer; also an element of GF(2^8) (R200). -/
abbrev Byte := BitVec 8

/-- A 32-bit register, bus or command word (R100, R140). -/
abbrev Word := BitVec 32

/-- A byte address inside the block's window, 0x00000..0x3FFFF (R100). -/
abbrev Addr := BitVec 18

end Sys2Proof
end

