-- ==== Sys2Proof/Config.lean ====
section
/-! DEFINITION. What a platform or an implementation fixes and the spec leaves open: constants with no body, so that
no proof can lean on a value of theirs. -/

namespace Sys2Proof.Config

/-- The n-th free value a run draws: what a read of a result register or result buffer returns while BUSY = 1
("any value", R462, U2; log entry 2). -/
opaque freeRead : Nat → Word

/-- QRSB_BASE, where the block's window stands in the host's physical map (D2, U14; log entry 12). -/
opaque qrsbBase : Nat

/-- QRSB_IRQ_LINE, the host's interrupt input that IRQ drives (D13, U14; log entry 12). -/
opaque qrsbIrqLine : Nat

end Sys2Proof.Config
end

