-- ==== Sys2Proof/Syntax.lean ====
section
/-! DEFINITION. The commands of QRSB: one constructor per row of the opcode map (spec/30 R143). -/

namespace Sys2Proof

/-- An error-correction level (R6, R34). -/
inductive Level
  | l | m | q | h
  deriving DecidableEq, Repr

/-- A command with its operands. Operands are unsigned integers (R142): K, NR and VER are naturals whose field
width WellFormed checks; a mask id is one of eight (R6), so its field always fits (log entry 13). -/
inductive Instr
  /-- NOP (R370). -/
  | nop
  /-- SRST (R371). -/
  | srst
  /-- RSENC K, NR (R208). -/
  | rsenc (k nr : Nat)
  /-- ECCBLD (R225). -/
  | eccbld
  /-- FRMINIT (R281). -/
  | frminit
  /-- PLACE (R285). -/
  | place
  /-- MAPPLY m (R331). -/
  | mapply (m : Fin 8)
  /-- MEVAL m (R332). -/
  | meval (m : Fin 8)
  /-- MSEL (R334). -/
  | msel
  /-- FMTINFO lvl, m (R253). -/
  | fmtinfo (lvl : Level) (m : Fin 8)
  /-- VERINFO v (R257). -/
  | verinfo (v : Nat)
  /-- ENCODE (R372). -/
  | encode
  deriving DecidableEq, Repr

end Sys2Proof
end

