-- ==== Sys2Proof/Machine/State.lean ====
section
/-! DEFINITION. The state of QRSB (spec/10 R30): registers, valid flags, buffers and the command in flight; beside
them what the outside world does next. Also the reasons a step stops. -/

namespace Sys2Proof.Machine

/-- The width of a host access (R102). -/
inductive Width
  | byte | half | word
  deriving DecidableEq, Repr

/-- What happens next outside a command's own effect. Reads and writes are the host's bus accesses (R101, R109);
`engine` is the moment the command in flight completes (R403, R470); `resetInput` is a change of the reset input
(R450). -/
inductive Event
  | read (w : Width) (a : Addr)
  | write (w : Width) (a : Addr) (v : Word)
  | engine
  | resetInput (asserted : Bool)
  deriving DecidableEq, Repr

/-- What the last host access got back. -/
inductive Response
  /-- No access yet. -/
  | nothing
  /-- A write was performed or discarded without a bus error. -/
  | written
  /-- The data of a read, zero-extended to 32 bits. -/
  | data (v : Word)
  deriving DecidableEq, Repr

/-- The kind of a frame cell (R47, R48). -/
inductive Kind
  | empty | data | func | rsvd
  deriving DecidableEq, Repr

/-- A tagged cell of FRAME (R47). `bit` true is dark. -/
structure Cell where
  kind : Kind
  bit : Bool
  deriving DecidableEq, Repr

/-- A buffer: the entries written since reset, by index, the indices strictly rising. An index that is not listed
holds no value (R452). A buffer of bytes is a list of `Host.Cell`. -/
abbrev Memory (α : Type) := List (Nat × α)

/-- The buffers whose contents reset leaves unspecified (R452). -/
inductive Buffer
  | dbuf | seq | pbuf | frame | matrix
  deriving DecidableEq, Repr

/-- The error codes of ERRINFO (R401). -/
inductive ErrCode
  | none | illegal | badver | badrs | sequence | badmask | internal
  deriving DecidableEq, Repr

/-- CONFIG (R34). -/
structure ConfigReg where
  version : BitVec 6
  level : Level
  maskEn : BitVec 8
  ie : Bool
  deriving DecidableEq, Repr

/-- STATUS (R36) but for BUSY, which is `inflight ≠ none` (R55). -/
structure StatusReg where
  done : Bool
  err : Bool
  ovr : Bool
  seqv : Bool
  frmv : Bool
  plcd : Bool
  matv : Bool
  deriving DecidableEq, Repr

/-- ERRINFO (R37). -/
structure ErrInfoReg where
  opc : Byte
  code : ErrCode
  deriving DecidableEq, Repr

/-- JOB (R40). -/
structure JobReg where
  seqVer : BitVec 6
  seqLvl : Level
  frmVer : BitVec 6
  plcLvl : Level
  deriving DecidableEq, Repr

/-- SEQ_LEN (R42). -/
structure SeqLenReg where
  t : BitVec 12
  d : BitVec 12
  deriving DecidableEq, Repr

/-- The machine. ID, EXP and LOG are constants (R33, R51) and no fields. FRAME and MATRIX are indexed by
256·row + column, the cell's offset in its window (R101). The last four fields are the model's own. -/
structure State where
  config : ConfigReg
  lastCmd : Word
  status : StatusReg
  errinfo : ErrInfoReg
  /-- RS_SRC.OFFSET (R38). -/
  rsSrc : BitVec 12
  /-- RESULT.MAT_MASK (R39). -/
  matMask : Fin 8
  job : JobReg
  bchOut : BitVec 18
  seqLen : SeqLenReg
  pen : Vector Word 8
  dbuf : Memory Byte
  seq : Memory Byte
  pbuf : Memory Byte
  frame : Memory Cell
  matrix : Memory Bool
  /-- INFLIGHT: the accepted command word while the command executes (R55). -/
  inflight : Option Word
  /-- What the host, the engine and the reset input do next, in order (log entry 1). -/
  agenda : List Event
  /-- The level of the reset input (R450; log entry 8). -/
  resetPin : Bool
  /-- What the last host access got back (log entry 11). -/
  response : Response
  /-- How many free values have been drawn (log entry 2). -/
  freeCount : Nat
  deriving DecidableEq, Repr

/-- Why the machine stops. -/
inductive Fault
  /-- A host access that is misaligned, unmapped, of a width its row does not list, or a write to a read-only row
  gets a bus error and changes nothing (R103, R407). Raised by the host's access; safe. -/
  | busError (w : Width) (a : Addr)
  /-- A buffer entry that nothing has written since reset is read, by a command or by the host (R452, U3).
  Raised by RSENC, ECCBLD, ENCODE, PLACE, MAPPLY, MEVAL, MSEL and host reads; safe. -/
  | unwritten (b : Buffer)
  /-- PLACE's count check failed: the spec lets a model be stuck here (R286, R406, U4). Raised by PLACE and ENCODE;
  unreachable from reset; safe. -/
  | internal
  deriving DecidableEq, Repr

/-- Why a step has no meaning. -/
inductive Refusal
  /-- The instruction has no meaning in the model yet. Raised by exec's arms only; safe. -/
  | notModelled (mnemonic : String)
  /-- A host access while the reset input is asserted, which the host must not make (R450, U12). Raised by the
  host's access; safe. -/
  | accessDuringReset
  deriving DecidableEq, Repr

/-- The machine right after reset (R57, R450–R452): every register at the spec's value, every buffer with nothing
listed, nothing in flight, the reset input released. -/
def State.reset : State where
  config := { version := 0, level := .l, maskEn := 0xFF, ie := false }
  lastCmd := 0
  status := { done := false, err := false, ovr := false, seqv := false, frmv := false, plcd := false, matv := false }
  errinfo := { opc := 0, code := .none }
  rsSrc := 0
  matMask := 0
  job := { seqVer := 0, seqLvl := .l, frmVer := 0, plcLvl := .l }
  bchOut := 0
  seqLen := { t := 0, d := 0 }
  pen := Vector.replicate 8 0xFFFFFFFF
  dbuf := []
  seq := []
  pbuf := []
  frame := []
  matrix := []
  inflight := none
  agenda := []
  resetPin := false
  response := .nothing
  freeCount := 0

end Sys2Proof.Machine
end

