-- ==== Sys2Proof/Machine/Galois.lean ====
section
/-! DEFINITION. GF(2^8) with field polynomial 0x11D and the Reed-Solomon block encoder (spec/40 R200–R207),
and the partition and interleaving of a symbol's codewords (R223, R224). -/

namespace Sys2Proof.Machine

/-- Multiplication by α = 0x02: shift, and reduce x^8 by the field polynomial (R200, R201). -/
def xtime (a : Byte) : Byte := (a <<< 1) ^^^ (if a.getLsbD 7 then 0x1D else 0x00)

/-- The terms of a·b for the n low bits of b: b[0]·a ⊕ x·(the rest). -/
def mulBits : Nat → Byte → Byte → Byte
  | 0, _, _ => 0x00
  | n + 1, a, b => (if b.getLsbD 0 then a else 0x00) ^^^ mulBits n (xtime a) (b >>> 1)

/-- a ⊗ b, the product of the two polynomials reduced modulo the field polynomial (R200, R203; log entry 18). -/
def gfMul (a b : Byte) : Byte := mulBits 8 a b

/-- α^i (R201). -/
def alphaPow : Nat → Byte
  | 0 => 0x01
  | i + 1 => xtime (alphaPow i)

/-- EXP[i] for i in 0..255, with the sentinel EXP[255] = 0 (R201). -/
def expEntry (i : Nat) : Byte := if i = 255 then 0x00 else alphaPow i

/-- The first j ≥ i with α^j = x, given p = α^i, among the next `fuel` exponents. -/
def logFrom : Nat → Nat → Byte → Byte → Nat
  | 0, i, _, _ => i
  | fuel + 1, i, p, x => if p = x then i else logFrom fuel (i + 1) (xtime p) x

/-- LOG[x], with the sentinel LOG[0] = 255 (R202). -/
def logEntry (x : Byte) : Nat := if x = 0x00 then 255 else logFrom 255 0 0x01 x

/-- g_n(x) = (x ⊕ α^0)…(x ⊕ α^(n−1)), coefficients g_n[0..n] from x^n down (R204). -/
def genPoly : Nat → List Byte
  | 0 => [0x01]
  | n + 1 =>
    let g := genPoly n
    List.zipWith (· ^^^ ·) (g ++ [0x00]) (0x00 :: g.map (gfMul (alphaPow n)))

/-- One data byte through the encoder's shift register: f = d ⊕ r[0], r[j] ← r[j+1] ⊕ f ⊗ g[j+1], with 0 shifted
in at the end (R206). `taps` is g_n[1..n]. -/
def lfsrStep (taps r : List Byte) (d : Byte) : List Byte :=
  List.zipWith (fun a g => a ^^^ gfMul (d ^^^ r.headD 0x00) g) (r.tail ++ [0x00]) taps

/-- RSPARITY(d, n) as a shift register that starts at zero (R205, R206). -/
def rsParity (d : List Byte) (n : Nat) : List Byte :=
  d.foldl (lfsrStep (genPoly n).tail) (List.replicate n 0x00)

/-- The data lengths of a symbol's blocks, in order (R223). -/
def Blocks.lengths (b : Blocks) : List Nat := List.replicate b.n1 b.k1 ++ List.replicate b.n2 (b.k1 + 1)

/-- Cut the data into consecutive blocks of the given lengths (R223). -/
def cutBlocks : List Nat → List Byte → List (List Byte)
  | [], _ => []
  | n :: ns, d => d.take n :: cutBlocks ns (d.drop n)

/-- Round-robin: round i takes the i-th codeword of every block that has one (R224). -/
def roundRobin (rounds : Nat) (blocks : List (List Byte)) : List Byte :=
  (List.range rounds).flatMap fun i => blocks.filterMap fun blk => blk[i]?

/-- The interleaved codeword sequence of a symbol: k1 + 1 rounds of data, then e rounds of parity (R223, R224). -/
def codewordSequence (b : Blocks) (d : List Byte) : List Byte :=
  let blocks := cutBlocks b.lengths d
  roundRobin (b.k1 + 1) blocks ++ roundRobin b.e (blocks.map fun blk => rsParity blk b.e)

end Sys2Proof.Machine
end

