-- ==== Sys2Proof/WellFormed.lean ====
section
/-! DEFINITION. Which commands can be encoded: the operand fits its field (spec/30 R147, the assembler's refusals).
A value that fits the field but lies outside the command's legal range is well formed: its word decodes, and the
command fails with BADRS or BADVER (R145, R147). -/

namespace Sys2Proof

/-- The operand fits its field: K ≤ 255, NR ≤ 255, v ≤ 63 (R142, R147). -/
def Instr.wellFormed : Instr → Bool
  | .nop => true
  | .srst => true
  | .rsenc k nr => decide (k ≤ 255) && decide (nr ≤ 255)
  | .eccbld => true
  | .frminit => true
  | .place => true
  | .mapply _ => true
  | .meval _ => true
  | .msel => true
  | .fmtinfo _ _ => true
  | .verinfo v => decide (v ≤ 63)
  | .encode => true

end Sys2Proof
end

