-- ==== Sys2Proof/Decode.lean ====
section
/-! DEFINITION. The command decoder, total on every 32-bit word, and the encoder (spec/30 R140–R147). -/

namespace Sys2Proof

/-- The LEVEL code of a level: L = 0, M = 1, Q = 2, H = 3 (R34, R142). -/
def Level.code : Level → BitVec 2
  | .l => 0
  | .m => 1
  | .q => 2
  | .h => 3

/-- The level of a 2-bit code; every code is a level (R34, R142). -/
def Level.ofCode (c : BitVec 2) : Level :=
  match c.toNat with
  | 0 => .l
  | 1 => .m
  | 2 => .q
  | _ => .h

/-- Why a word is no command (R145). -/
inductive Reject
  /-- The opcode is none of the twelve assigned. -/
  | unassignedOpcode
  /-- The opcode is assigned and a reserved bit of its format is 1. -/
  | reservedBits
  deriving DecidableEq, Repr

/-- The commands' names, without operands. -/
inductive Mnemonic
  | nop | srst | rsenc | eccbld | frminit | place | mapply | meval | msel | fmtinfo | verinfo | encode
  deriving DecidableEq, Repr

/-- One row of the opcode map: a word x stands for `op` exactly when `x &&& mask = pattern`. -/
structure OpRow where
  op : Mnemonic
  pattern : Word
  mask : Word
  deriving DecidableEq, Repr

/-- The opcode map (R143). -/
def opcodeMap : List OpRow :=
  [ ⟨.nop,     0x00000000, 0xFFFFFFFF⟩,
    ⟨.srst,    0x00000001, 0xFFFFFFFF⟩,
    ⟨.rsenc,   0x00000010, 0xFF0000FF⟩,
    ⟨.eccbld,  0x00000011, 0xFFFFFFFF⟩,
    ⟨.frminit, 0x00000020, 0xFFFFFFFF⟩,
    ⟨.place,   0x00000021, 0xFFFFFFFF⟩,
    ⟨.mapply,  0x00000030, 0xFFFFF8FF⟩,
    ⟨.meval,   0x00000031, 0xFFFFF8FF⟩,
    ⟨.msel,    0x00000032, 0xFFFFFFFF⟩,
    ⟨.fmtinfo, 0x00000040, 0xFFFFE0FF⟩,
    ⟨.verinfo, 0x00000041, 0xFFFFC0FF⟩,
    ⟨.encode,  0x00000050, 0xFFFFFFFF⟩ ]

/-- OPC = x[7:0] (R141). -/
def opcField (x : Word) : Byte := x.extractLsb' 0 8

/-- MSK = x[10:8] (R142). -/
def mskField (x : Word) : Fin 8 := (x.extractLsb' 8 3).toFin

/-- LVL = x[12:11] (R142). -/
def lvlField (x : Word) : Level := Level.ofCode (x.extractLsb' 11 2)

/-- VER = x[13:8] (R142). -/
def verField (x : Word) : Nat := (x.extractLsb' 8 6).toNat

/-- K = x[15:8] (R142). -/
def kField (x : Word) : Nat := (x.extractLsb' 8 8).toNat

/-- NR = x[23:16] (R142). -/
def nrField (x : Word) : Nat := (x.extractLsb' 16 8).toNat

/-- The command of a word that matches a row: its operands read from the format's fields (R141, R142). -/
def withOperands (op : Mnemonic) (x : Word) : Instr :=
  match op with
  | .nop => .nop
  | .srst => .srst
  | .rsenc => .rsenc (kField x) (nrField x)
  | .eccbld => .eccbld
  | .frminit => .frminit
  | .place => .place
  | .mapply => .mapply (mskField x)
  | .meval => .meval (mskField x)
  | .msel => .msel
  | .fmtinfo => .fmtinfo (lvlField x) (mskField x)
  | .verinfo => .verinfo (verField x)
  | .encode => .encode

/-- A word matches a row of the opcode map (R143). -/
def OpRow.matches (row : OpRow) (x : Word) : Bool := (x &&& row.mask) == row.pattern

/-- The decoder: the row the word matches, or why it matches none (R143, R145). -/
def decode (x : Word) : Except Reject Instr :=
  match opcodeMap.find? (fun row => row.matches x) with
  | some row => .ok (withOperands row.op x)
  | none =>
    if opcodeMap.any (fun row => opcField row.pattern == opcField x) then .error .reservedBits
    else .error .unassignedOpcode

/-- The word of a command (R147). -/
def encode : Instr → Word
  | .nop => 0x00000000
  | .srst => 0x00000001
  | .rsenc k nr => (BitVec.ofNat 32 nr <<< 16) ||| (BitVec.ofNat 32 k <<< 8) ||| 0x10
  | .eccbld => 0x00000011
  | .frminit => 0x00000020
  | .place => 0x00000021
  | .mapply m => (BitVec.ofNat 32 m.val <<< 8) ||| 0x30
  | .meval m => (BitVec.ofNat 32 m.val <<< 8) ||| 0x31
  | .msel => 0x00000032
  | .fmtinfo lvl m => (lvl.code.setWidth 32 <<< 11) ||| (BitVec.ofNat 32 m.val <<< 8) ||| 0x40
  | .verinfo v => (BitVec.ofNat 32 v <<< 8) ||| 0x41
  | .encode => 0x00000050

/-- The opcode byte of a command, which ERRINFO.OPC records when it fails (R141, R143). -/
def Instr.opc : Instr → Byte
  | .nop => 0x00
  | .srst => 0x01
  | .rsenc _ _ => 0x10
  | .eccbld => 0x11
  | .frminit => 0x20
  | .place => 0x21
  | .mapply _ => 0x30
  | .meval _ => 0x31
  | .msel => 0x32
  | .fmtinfo _ _ => 0x40
  | .verinfo _ => 0x41
  | .encode => 0x50

/-- A command word given as a number of `nbits` bits, bit 0 the least significant; a command is one 32-bit word, so
its bytes need no order beyond the word itself (R104, R140). -/
def tableWord (nbits w : Nat) : Word := BitVec.ofNat 32 (w % 2 ^ nbits)

/-- What the decoder reads from an instruction whose bits are w, as spec/opcode_table.json numbers them. -/
def decodeTableWord (nbits w : Nat) : Option Instr :=
  match decode (tableWord nbits w) with
  | .ok i => some i
  | .error _ => none

end Sys2Proof
end

