-- ==== Sys2Proof/Machine/Bch.lean ====
section
/-! DEFINITION. The BCH words: 15-bit format information and 18-bit version information (spec/41 R250–R256). -/

namespace Sys2Proof.Machine

/-- The number of bits of a (R251). -/
def bitLength (a : Nat) : Nat := if a = 0 then 0 else Nat.log2 a + 1

/-- The steps of POLYMOD for the degrees k + n − 1 down to k (R251). -/
def polyModSteps : Nat → Nat → Nat → Nat → Nat
  | 0, a, _, _ => a
  | n + 1, a, g, k => polyModSteps n (if a.testBit (n + k) then a ^^^ (g <<< n) else a) g k

/-- POLYMOD(a, g, k), the remainder of a divided by the degree-k polynomial g over GF(2) (R251). -/
def polyMod (a g k : Nat) : Nat := polyModSteps (bitLength a - k) a g k

/-- IND(lvl), the error-correction indicator; not the LEVEL code (R250). -/
def levelIndicator : Level → Nat
  | .l => 0b01
  | .m => 0b00
  | .q => 0b11
  | .h => 0b10

/-- FMT(lvl, m) (R251). -/
def formatWord (lvl : Level) (m : Fin 8) : BitVec 15 :=
  let dat := (levelIndicator lvl <<< 3) ||| m.val
  BitVec.ofNat 15 (((dat <<< 10) ||| polyMod (dat <<< 10) 0x537 10) ^^^ 0x5412)

/-- VER(v) (R254, R255). -/
def versionWord (v : Nat) : BitVec 18 := BitVec.ofNat 18 ((v <<< 12) ||| polyMod (v <<< 12) 0x1F25 12)

end Sys2Proof.Machine
end

