-- ==== Sys2Proof/Machine/Memory.lean ====
section
/-! DEFINITION. The operations over a buffer: reading an entry or a run of entries, writing one, a run, or a list of
entries. Every write keeps the canonical form `Memory.wf`. -/

namespace Sys2Proof.Machine.Memory

/-- The canonical form: indices strictly rising. (An unlisted index holds no value, so no entry can equal it.) -/
def wf {α : Type} : Memory α → Bool
  | [] => true
  | [_] => true
  | (a, _) :: (b, w) :: m => decide (a < b) && wf ((b, w) :: m)

/-- Every listed index is below n. -/
def below {α : Type} (m : Memory α) (n : Nat) : Bool := m.all (fun e => decide (e.1 < n))

/-- The entry at index a, if any. -/
def read {α : Type} : Memory α → Nat → Option α
  | [], _ => none
  | (k, v) :: m, a => if k = a then some v else read m a

/-- The n entries from index a on, if all are there. -/
def readRun {α : Type} : Memory α → Nat → Nat → Option (List α)
  | _, _, 0 => some []
  | [], _, _ + 1 => none
  | (k, v) :: m, a, n + 1 =>
    if k < a then readRun m a (n + 1)
    else if k = a then (readRun m (a + 1) n).map (v :: ·)
    else none

/-- Put the entry (k, v) into a buffer and go on with `rest` behind it; part of `overlay`. -/
def putBefore {α : Type} (k : Nat) (v : α) (rest : Memory α → Memory α) : Memory α → Memory α
  | [] => (k, v) :: rest []
  | (k', v') :: m =>
    if k' < k then (k', v') :: putBefore k v rest m
    else if k' = k then (k, v) :: rest m
    else (k, v) :: rest ((k', v') :: m)

/-- The entries of `new` over those of `old`: at an index both list, `new` wins. -/
def overlay {α : Type} : Memory α → Memory α → Memory α
  | [], old => old
  | (k, v) :: new, old => putBefore k v (overlay new) old

/-- The entries vs at the indices a, a + 1, … -/
def ofRun {α : Type} : Nat → List α → Memory α
  | _, [] => []
  | a, v :: vs => (a, v) :: ofRun (a + 1) vs

/-- Write one entry. -/
def write {α : Type} (m : Memory α) (a : Nat) (v : α) : Memory α := overlay [(a, v)] m

/-- Write vs at the indices a, a + 1, … -/
def writeRun {α : Type} (m : Memory α) (a : Nat) (vs : List α) : Memory α := overlay (ofRun a vs) m

/-- Overlay neighbours pairwise, the later over the earlier. -/
def mergePairs {α : Type} : List (Memory α) → List (Memory α)
  | a :: b :: rest => overlay b a :: mergePairs rest
  | l => l

/-- Overlay a list of buffers, the later over the earlier, in at most `fuel` rounds of pairs. -/
def mergeAll {α : Type} : Nat → List (Memory α) → Memory α
  | 0, l => l.foldl (fun acc m => overlay m acc) []
  | fuel + 1, l =>
    match l with
    | [] => []
    | [m] => m
    | a :: b :: rest => mergeAll fuel (mergePairs (a :: b :: rest))

/-- Write the entries ws in the order of the list, so that the last one to an index stays. -/
def writeAll {α : Type} (m : Memory α) (ws : List (Nat × α)) : Memory α :=
  overlay (mergeAll 32 (ws.map fun e => [e])) m

/-- The rows `rs` of a grid, w entries each, in a buffer indexed by 256·row + column. -/
def readRows {α : Type} (m : Memory α) (w : Nat) : List Nat → Option (List (List α))
  | [] => some []
  | r :: rs =>
    match readRun m (256 * r) w, readRows m w rs with
    | some row, some rows => some (row :: rows)
    | _, _ => none

/-- A buffer of 177 rows by 177 columns, indexed by 256·row + column, that holds f at every cell (R47, R49). -/
def ofGrid {α : Type} (f : Nat → Nat → α) : Memory α :=
  (List.range 177).flatMap fun r => (List.range 177).map fun c => (256 * r + c, f r c)

end Sys2Proof.Machine.Memory
end

