-- ==== Sys2Proof/Machine/Symbol.lean ====
section
/-! DEFINITION. The frame of a version and the zig-zag traversal (spec/42 R270–R287). Each drawing step is a function
that says what it writes at a cell, if anything. -/

namespace Sys2Proof.Machine

/-- |a − b|. -/
def absDiff (a b : Nat) : Nat := (a - b) + (b - a)

/-- FUNC b. -/
def func (b : Bool) : Cell := ⟨.func, b⟩

/-- RSVD b. -/
def rsvd (b : Bool) : Cell := ⟨.rsvd, b⟩

/-- (EMPTY, 0). -/
def emptyCell : Cell := ⟨.empty, false⟩

/-- The finder with top-left corner (r0, c0): dark but for the ring at distance 2 from its centre (R271). -/
def finderAt (r0 c0 r c : Nat) : Option Cell :=
  if r0 ≤ r ∧ r ≤ r0 + 6 ∧ c0 ≤ c ∧ c ≤ c0 + 6 then
    some (func (max (absDiff r (r0 + 3)) (absDiff c (c0 + 3)) != 2))
  else none

/-- The three finders (R271). -/
def drawFinders (w r c : Nat) : Option Cell :=
  (finderAt 0 0 r c).or ((finderAt 0 (w - 7) r c).or (finderAt (w - 7) 0 r c))

/-- The separators, light (R272). -/
def drawSeparators (w r c : Nat) : Option Cell :=
  if (r = 7 ∧ c ≤ 7) ∨ (c = 7 ∧ r ≤ 7)
    ∨ (r = 7 ∧ w - 8 ≤ c) ∨ (c = w - 8 ∧ r ≤ 7)
    ∨ (r = w - 8 ∧ c ≤ 7) ∨ (c = 7 ∧ w - 8 ≤ r) then some (func false)
  else none

/-- The format-information reserve (R273). -/
def drawFormatReserve (w r c : Nat) : Option Cell :=
  if (r = 8 ∧ c ≤ 8) ∨ (c = 8 ∧ r ≤ 8) ∨ (r = 8 ∧ w - 8 ≤ c) ∨ (c = 8 ∧ w - 8 ≤ r) then some (rsvd false)
  else none

/-- The timing patterns along row 6 and column 6 (R274). -/
def drawTiming (w r c : Nat) : Option Cell :=
  if r = 6 ∧ 8 ≤ c ∧ c ≤ w - 9 then some (func (c % 2 == 0))
  else if c = 6 ∧ 8 ≤ r ∧ r ≤ w - 9 then some (func (r % 2 == 0))
  else none

/-- The alignment centre coordinate within 2 of x; the entries of ALIGN(v) lie further apart, so there is at most
one (R275, R276). -/
def centreNear (v x : Nat) : Option Nat := (alignCentres v).find? fun p => decide (absDiff p x ≤ 2)

/-- The pairs of centre coordinates that would overlap a finder: (6, 6), (6, last), (last, 6) (R276). -/
def overlapsFinder (w p q : Nat) : Bool := (p == 6 && q == 6) || (p == 6 && q == w - 7) || (p == w - 7 && q == 6)

/-- The alignment patterns: dark but for the ring at distance 1 from the centre (R275, R276). -/
def drawAlignment (v r c : Nat) : Option Cell :=
  match centreNear v r, centreNear v c with
  | some p, some q =>
    if overlapsFinder (symbolWidth v) p q then none
    else some (func (max (absDiff r p) (absDiff c q) != 1))
  | _, _ => none

/-- The version-information areas, for v ≥ 7 (R278). -/
def drawVersion (v r c : Nat) : Option Cell :=
  if v < 7 then none
  else
    let w := symbolWidth v
    if r ≤ 5 ∧ w - 11 ≤ c ∧ c ≤ w - 9 then some (rsvd ((versionWord v).getLsbD (3 * r + (c - (w - 11)))))
    else if c ≤ 5 ∧ w - 11 ≤ r ∧ r ≤ w - 9 then some (rsvd ((versionWord v).getLsbD (3 * c + (r - (w - 11)))))
    else none

/-- The dark module (R277). -/
def drawDark (w r c : Nat) : Option Cell := if r = w - 8 ∧ c = 8 then some (func true) else none

/-- The cell of the version-v frame after FRMINIT: the last drawing step of R279 that writes it, or (EMPTY, 0). -/
def drawnCell (v r c : Nat) : Cell :=
  let w := symbolWidth v
  if r < w ∧ c < w then
    ((drawDark w r c).or ((drawVersion v r c).or ((drawAlignment v r c).or ((drawTiming w r c).or
      ((drawFormatReserve w r c).or ((drawSeparators w r c).or (drawFinders w r c))))))).getD emptyCell
  else emptyCell

/-- FRAME after FRMINIT of version v: all 177×177 cells (R281). -/
def frameImage (v : Nat) : Memory Cell := Memory.ofGrid (drawnCell v)

/-- A cell of a grid read row by row. -/
def cellAt (rows : List (List Cell)) (r c : Nat) : Cell := (rows.getD r []).getD c emptyCell

/-- The right columns of the traversal's column pairs from `right` down, skipping the timing column 6 (R283). -/
def rightColumns : Nat → Nat → List Nat
  | 0, _ => []
  | fuel + 1, right =>
    if right < 1 then []
    else
      let x := if right = 6 then 5 else right
      x :: rightColumns fuel (x - 2)

/-- The cells of one column pair, in traversal order: upward for the first pair, then alternating (R283). -/
def pairCells (w right : Nat) : List (Nat × Nat) :=
  (List.range w).flatMap fun vert =>
    let y := if (right + 1) &&& 2 = 0 then w - 1 - vert else vert
    [(y, right), (y, right - 1)]

/-- ORDER: the EMPTY cells in the order of the zig-zag traversal (R283). -/
def order (w : Nat) (rows : List (List Cell)) : List (Nat × Nat) :=
  (rightColumns w (w - 1)).flatMap fun right =>
    (pairCells w right).filter fun p => (cellAt rows p.1 p.2).kind == .empty

/-- A codeword's bits, most significant first (R284). -/
def msbFirst (b : Byte) : List Bool := (List.range 8).map fun i => b.getLsbD (7 - i)

/-- BITS(v): the codewords' bits and REM(v) zero bits (R284). -/
def placedBits (v : Nat) (seq : List Byte) : List Bool :=
  seq.flatMap msbFirst ++ List.replicate (remainderBits v) false

/-- FMTPOS1(k), around the top-left finder (R287). -/
def fmtPos1 (k : Nat) : Nat × Nat :=
  if k ≤ 5 then (k, 8)
  else if k = 6 then (7, 8)
  else if k = 7 then (8, 8)
  else if k = 8 then (8, 7)
  else (8, 14 - k)

/-- FMTPOS2(k), beside the other two finders (R287). -/
def fmtPos2 (w k : Nat) : Nat × Nat :=
  if k ≤ 7 then (8, w - 1 - k) else (w - 15 + k, 8)

end Sys2Proof.Machine
end

