-- ==== Sys2Proof/Machine/Mask.lean ====
section
/-! DEFINITION. The eight masks, the candidate symbol and its penalty (spec/43 R320–R330). -/

namespace Sys2Proof.Machine

/-- MASKF(m, i, j): invert the data cell at row i, column j (R321). -/
def maskFn (m : Fin 8) (i j : Nat) : Bool :=
  match m.val with
  | 0 => (i + j) % 2 == 0
  | 1 => i % 2 == 0
  | 2 => j % 3 == 0
  | 3 => (i + j) % 3 == 0
  | 4 => (i / 2 + j / 3) % 2 == 0
  | 5 => (i * j) % 2 + (i * j) % 3 == 0
  | 6 => ((i * j) % 2 + (i * j) % 3) % 2 == 0
  | _ => ((i + j) % 2 + (i * j) % 3) % 2 == 0

/-- The format bit a cell holds: the k with FMTPOS1(k) or FMTPOS2(k) at (r, c). All of them lie in row 8 or
column 8 (R287). -/
def fmtBitAt (w r c : Nat) : Option Nat :=
  if r = 8 ∨ c = 8 then (List.range 15).find? fun k => fmtPos1 k == (r, c) || fmtPos2 w k == (r, c)
  else none

/-- One module of SYM(m): the format word's bit at a format position, else the cell's bit, inverted at a DATA cell
the mask selects (R320, R322). -/
def symBit (w : Nat) (fmt : BitVec 15) (m : Fin 8) (cell : Cell) (r c : Nat) : Bool :=
  match fmtBitAt w r c with
  | some k => fmt.getLsbD k
  | none => cell.bit ^^ (cell.kind == .data && maskFn m r c)

/-- SYM(m) by rows, for level lvl, from the frame's rows (R322). -/
def symRows (w : Nat) (lvl : Level) (m : Fin 8) (rows : List (List Cell)) : List (List Bool) :=
  let fmt := formatWord lvl m
  (List.range w).map fun r =>
    let row := rows.getD r []
    (List.range w).map fun c => symBit w fmt m (row.getD c emptyCell) r c

/-- A module of a symbol given by rows; outside it 0. -/
def bitAt (S : List (List Bool)) (r c : Nat) : Bool := (S.getD r []).getD c false

/-- MATRIX built from a symbol: S[r][c] inside it, else 0 (R331). -/
def matrixImage (S : List (List Bool)) : Memory Bool := Memory.ofGrid (bitAt S)

/-- RUNS(L): the maximal blocks of equal adjacent bits, as (colour, length) (R324). -/
def runs : List Bool → List (Bool × Nat)
  | [] => []
  | b :: bs =>
    match runs bs with
    | (c, n) :: rest => if b = c then (c, n + 1) :: rest else (b, 1) :: (c, n) :: rest
    | [] => [(b, 1)]

/-- The N1 points of a line: 3 + len − 5 for every run of at least 5 (R325). -/
def n1Line (L : List Bool) : Nat := ((runs L).map fun t => if 5 ≤ t.2 then 3 + t.2 - 5 else 0).sum

/-- The 2×2 windows of one colour in two adjacent rows (R326). -/
def blocksIn : List Bool → List Bool → Nat
  | a :: b :: as, c :: d :: cs =>
    (if a = b ∧ a = c ∧ a = d then 1 else 0) + blocksIn (b :: as) (d :: cs)
  | _, _ => 0

/-- The 2×2 windows of one colour in a matrix (R326). -/
def blockCount : List (List Bool) → Nat
  | a :: b :: rest => blocksIn a b + blockCount (b :: rest)
  | _ => 0

/-- A light margin of at least 4u: the run beyond, or the end of the line (R327 (3)). -/
def margin (u : Nat) : List (Bool × Nat) → Bool
  | [] => true
  | t :: _ => decide (4 * u ≤ t.2)

/-- Whether run t is the centre of a 1:1:3:1:1 pattern, given the runs before it (nearest first) and after it
(R327). -/
def finderLike (before : List (Bool × Nat)) (t : Bool × Nat) (after : List (Bool × Nat)) : Bool :=
  match before, after with
  | b1 :: b2 :: more, a1 :: a2 :: more' =>
    t.1 && decide (1 ≤ b1.2) && t.2 == 3 * b1.2 && b2.2 == b1.2 && a1.2 == b1.2 && a2.2 == b1.2
      && (margin b1.2 more || margin b1.2 more')
  | _, _ => false

/-- The finder-like patterns of a line, run by run (R327). -/
def patternCount (before : List (Bool × Nat)) : List (Bool × Nat) → Nat
  | [] => 0
  | t :: after => (if finderLike before t after then 1 else 0) + patternCount (t :: before) after

/-- The N3 points of a line (R327). -/
def n3Line (L : List Bool) : Nat := 40 * patternCount [] (runs L)

/-- The columns of a matrix of w columns given by rows. -/
def columns (w : Nat) (S : List (List Bool)) : List (List Bool) :=
  S.foldr (fun row acc => List.zipWith (· :: ·) row acc) (List.replicate w [])

/-- The lines of a w×w matrix: its rows, then its columns. -/
def linesOf (w : Nat) (S : List (List Bool)) : List (List Bool) := S ++ columns w S

/-- N1(S) (R325). -/
def penaltyN1 (w : Nat) (S : List (List Bool)) : Nat := ((linesOf w S).map n1Line).sum

/-- N2(S) (R326). -/
def penaltyN2 (S : List (List Bool)) : Nat := 3 * blockCount S

/-- N3(S) (R327). -/
def penaltyN3 (w : Nat) (S : List (List Bool)) : Nat := ((linesOf w S).map n3Line).sum

/-- dark(S) (R323). -/
def darkCount (S : List (List Bool)) : Nat := (S.map fun row => row.count true).sum

/-- darkPercent(S), truncated (R323). -/
def darkPercent (w : Nat) (S : List (List Bool)) : Nat := 100 * darkCount S / (w * w)

/-- N4(S) (R328). -/
def penaltyN4 (w : Nat) (S : List (List Bool)) : Nat := 10 * (absDiff (darkPercent w S) 50 / 5)

/-- PENALTY(S) of a w×w matrix (R329). -/
def penalty (w : Nat) (S : List (List Bool)) : Nat :=
  penaltyN1 w S + penaltyN2 S + penaltyN3 w S + penaltyN4 w S

/-- The mask ids in the canonical order (R335). -/
def maskIds : List (Fin 8) := [0, 1, 2, 3, 4, 5, 6, 7]

/-- The first candidate of the lowest penalty among (mask, penalty) pairs, starting from `best` (R334). -/
def firstMinimum : Option (Fin 8 × Nat) → List (Fin 8 × Nat) → Option (Fin 8 × Nat)
  | best, [] => best
  | none, c :: cs => firstMinimum (some c) cs
  | some b, c :: cs => firstMinimum (if c.2 < b.2 then some c else some b) cs

end Sys2Proof.Machine
end

