-- ==== Sys2Proof/Machine/Flags.lean ====
section
/-! DEFINITION. The STATUS register: its flags as a word, the write-one-to-clear rule, BUSY, and the interrupt output
(spec/10 R36, R55, R56; spec/60 R408, R410). -/

namespace Sys2Proof.Machine

/-- STATUS.BUSY: a command is in flight (R55). -/
def State.busy (s : State) : Bool := s.inflight.isSome

/-- The STATUS word: bits 0..7 are BUSY, DONE, ERR, OVR, SEQV, FRMV, PLCD, MATV, the rest 0 (R36). -/
def statusWord (busy : Bool) (f : StatusReg) : Word :=
  0#24 ++ BitVec.ofBool f.matv ++ BitVec.ofBool f.plcd ++ BitVec.ofBool f.frmv ++ BitVec.ofBool f.seqv
    ++ BitVec.ofBool f.ovr ++ BitVec.ofBool f.err ++ BitVec.ofBool f.done ++ BitVec.ofBool busy

/-- STATUS with its four valid flags taken from a free word, as a read sees it while BUSY = 1 (R462). -/
def StatusReg.withFreeValid (f : StatusReg) (free : Word) : StatusReg :=
  { f with
    seqv := free.getLsbD 4
    frmv := free.getLsbD 5
    plcd := free.getLsbD 6
    matv := free.getLsbD 7 }

/-- A host write v to STATUS clears DONE, ERR and OVR where v has a 1, and changes nothing else (R36). -/
def StatusReg.clear (f : StatusReg) (v : Word) : StatusReg :=
  { f with
    done := f.done && !v.getLsbD 1
    err := f.err && !v.getLsbD 2
    ovr := f.ovr && !v.getLsbD 3 }

/-- IRQ = STATUS.DONE AND CONFIG.IE, at every instant (R410). -/
def State.irq (s : State) : Bool := s.status.done && s.config.ie

/-- The level of the host's interrupt input `line`, of which QRSB drives QRSB_IRQ_LINE (R410, U14). -/
def State.irqOn (s : State) (line : Nat) : Bool := decide (line = Config.qrsbIrqLine) && s.irq

end Sys2Proof.Machine
end

