-- ==== Sys2Proof/Machine/Registers.lean ====
section
/-! DEFINITION. The other registers as 32-bit words: every reserved bit reads 0 and ignores writes (spec/10 R33–R43,
R48; U5). -/

namespace Sys2Proof.Machine

/-- ID (R33). -/
def idWord : Word := 0x51520001

/-- The CONFIG word (R34). -/
def ConfigReg.word (c : ConfigReg) : Word :=
  0#7 ++ BitVec.ofBool c.ie ++ c.maskEn ++ 0#6 ++ c.level.code ++ 0#2 ++ c.version

/-- CONFIG after a host write of v: any 6-bit version, any level, any mask set, IE (R34). -/
def ConfigReg.ofWord (v : Word) : ConfigReg where
  version := v.extractLsb' 0 6
  level := Level.ofCode (v.extractLsb' 8 2)
  maskEn := v.extractLsb' 16 8
  ie := v.getLsbD 24

/-- The code of an error (R401). -/
def ErrCode.code : ErrCode → BitVec 4
  | .none => 0
  | .illegal => 1
  | .badver => 2
  | .badrs => 3
  | .sequence => 4
  | .badmask => 5
  | .internal => 6

/-- The ERRINFO word (R37). -/
def ErrInfoReg.word (e : ErrInfoReg) : Word := 0#16 ++ e.opc ++ 0#4 ++ e.code.code

/-- ERRINFO after ERR is cleared, and after reset (R37, R408). -/
def ErrInfoReg.clear : ErrInfoReg := ⟨0, .none⟩

/-- The RS_SRC word (R38). -/
def rsSrcWord (off : BitVec 12) : Word := 0#20 ++ off

/-- The RESULT word (R39). -/
def resultWord (m : Fin 8) : Word := 0#29 ++ BitVec.ofFin (w := 3) m

/-- The JOB word (R40). -/
def JobReg.word (j : JobReg) : Word :=
  0#6 ++ j.plcLvl.code ++ 0#2 ++ j.frmVer ++ 0#6 ++ j.seqLvl.code ++ 0#2 ++ j.seqVer

/-- The BCH_OUT word (R41). -/
def bchOutWord (b : BitVec 18) : Word := 0#14 ++ b

/-- The SEQ_LEN word (R42). -/
def SeqLenReg.word (l : SeqLenReg) : Word := 0#4 ++ l.d ++ 0#4 ++ l.t

/-- "Not evaluated" (R43). -/
def notEvaluated : Word := 0xFFFFFFFF

/-- The code of a cell kind (R48). -/
def Kind.code : Kind → BitVec 2
  | .empty => 0
  | .data => 1
  | .func => 2
  | .rsvd => 3

/-- The host-visible byte of a FRAME cell (R48). -/
def Cell.byte (cell : Cell) : Byte := 0#5 ++ cell.kind.code ++ BitVec.ofBool cell.bit

/-- The host-visible byte of a MATRIX module (R49). -/
def moduleByte (dark : Bool) : Byte := 0#7 ++ BitVec.ofBool dark

end Sys2Proof.Machine
end

