-- ==== Sys2Proof/Machine/Ops.lean ====
section
/-! DEFINITION. What every command shares: acceptance, completion, the error entry and its acknowledgement, and reset
(spec/60 R400–R409, spec/70 R450). -/

namespace Sys2Proof.Machine

/-- The outcome of a step. -/
abbrev Result := Host.Outcome State Fault Refusal

/-- One effect after another; the first stop ends the sequence. -/
def andThen (o : Result) (f : State → Result) : Result :=
  match o with
  | .next s => f s
  | .fault r => .fault r
  | .refused r => .refused r

/-- Every piece of QRSB's state takes its reset value; what the outside world does, and what it has been answered,
stays (R450, R57). -/
def applyReset (s : State) : State :=
  { State.reset with
    agenda := s.agenda
    resetPin := s.resetPin
    response := s.response
    freeCount := s.freeCount }

/-- A command word is accepted (R400). -/
def accept (x : Word) (s : State) : State :=
  { s with lastCmd := x, status := { s.status with done := false }, inflight := some x }

/-- A host write is discarded: OVR ← 1 and nothing else (R400, R461). -/
def discard (s : State) : State := { s with status := { s.status with ovr := true } }

/-- A host write of x to CMD (R400). -/
def submit (x : Word) (s : State) : State := if s.busy || s.status.err then discard s else accept x s

/-- A command other than SRST completes without error (R403). -/
def completeOk (s : State) : State :=
  { s with status := { s.status with done := true }, inflight := none }

/-- Taking an error, the one shared entry: ERRINFO ← (OPC, CODE), ERR ← 1, DONE ← 1, INFLIGHT ← NONE, nothing else
(R403, R404). -/
def raiseError (opc : Byte) (e : ErrCode) (s : State) : State :=
  { s with
    errinfo := ⟨opc, e⟩
    status := { s.status with err := true, done := true }
    inflight := none }

/-- A host write of v to STATUS, the acknowledgement of an error or a completion: the W1C bits clear, and clearing
ERR sets ERRINFO ← 0 (R36, R408). -/
def acknowledge (v : Word) (s : State) : State :=
  { s with
    status := s.status.clear v
    errinfo := if v.getLsbD 2 then ErrInfoReg.clear else s.errinfo }

/-- The command in flight is no command of the opcode map: ILLEGAL (R145, R401). -/
def completeIllegal (x : Word) (s : State) : State := raiseError (opcField x) .illegal s

/-- PEN[0..7] all at "not evaluated" (R43, R281). -/
def noPenalties : Vector Word 8 := Vector.replicate 8 notEvaluated

end Sys2Proof.Machine
end

