-- ==== Sys2Proof/Machine/Operands.lean ====
section
/-! DEFINITION. Where the commands take their operands from: CONFIG, RS_SRC, JOB, the flags and the buffers (spec/30
R142, spec/00 R8). A buffer entry that nothing has written since reset holds no value, so reading it stops (R452). -/

namespace Sys2Proof.Machine

/-- CONFIG.VERSION as a number (R34). -/
def State.version (s : State) : Nat := s.config.version.toNat

/-- JOB.FRM_VER as a number (R40). -/
def State.frameVersion (s : State) : Nat := s.job.frmVer.toNat

/-- The width of the frame in FRAME, w(JOB.FRM_VER) (R322). -/
def State.frameWidth (s : State) : Nat := symbolWidth s.frameVersion

/-- The first n data codewords from DBUF[off] on (R8, R44). -/
def readData (s : State) (off n : Nat) : Option (List Byte) := s.dbuf.readRun off n

/-- SEQ[0..n−1] (R45). -/
def readSequence (s : State) (n : Nat) : Option (List Byte) := s.seq.readRun 0 n

/-- The w×w frame in FRAME, row by row (R47). -/
def readFrame (s : State) : Option (List (List Cell)) := s.frame.readRows s.frameWidth (List.range s.frameWidth)

/-- CONFIG.MASK_EN[m] (R34). -/
def State.maskEnabled (s : State) (m : Fin 8) : Bool := s.config.maskEn.getLsbD m.val

/-- RSENC's range check (R208). -/
def badRsOperands (k nr off : Nat) : Bool :=
  decide (k = 0) || decide (nr = 0) || decide (255 < k + nr) || decide (4096 < off + k)

/-- PLACE's precondition fails: SEQ or FRAME not valid, FRAME already placed, or built for different versions
(R285). -/
def State.cannotPlace (s : State) : Bool :=
  !s.status.seqv || !s.status.frmv || s.status.plcd || s.job.seqVer != s.job.frmVer

end Sys2Proof.Machine
end

