-- ==== Sys2Proof/Machine/BchInfo.lean ====
section
/-! DEFINITION. FMTINFO and VERINFO (spec/41 R253, R257). -/

namespace Sys2Proof.Machine

/-- FMTINFO lvl, m (R253). -/
def execFmtinfo (lvl : Level) (m : Fin 8) (s : State) : Result :=
  .next (completeOk { s with bchOut := (formatWord lvl m).setWidth 18 })

/-- VERINFO v (R257). -/
def execVerinfo (v : Nat) (s : State) : Result :=
  if v < 7 ∨ 40 < v then .next (raiseError (Instr.opc (.verinfo v)) .badver s)
  else .next (completeOk { s with bchOut := versionWord v })

end Sys2Proof.Machine
end

