-- ==== Sys2Proof/Machine/FrameBuild.lean ====
section
/-! DEFINITION. FRMINIT and PLACE (spec/42 R281, R285, R286). -/

namespace Sys2Proof.Machine

/-- FRMINIT after its check: every FRAME cell, FRMV ← 1, PLCD ← 0, MATV ← 0, JOB.FRM_VER, PEN (R281). -/
def frminitBody (s : State) : Result :=
  .next { s with
    frame := frameImage s.version
    status := { s.status with frmv := true, plcd := false, matv := false }
    job := { s.job with frmVer := s.config.version }
    pen := noPenalties }

/-- FRMINIT (R281). -/
def execFrminit (s : State) : Result :=
  if !legalVersion s.version then .next (raiseError (Instr.opc .frminit) .badver s)
  else andThen (frminitBody s) fun t => .next (completeOk t)

/-- The writes of PLACE: the n-th visited cell becomes (DATA, the n-th bit) (R285). -/
def placements (cells : List (Nat × Nat)) (bits : List Bool) : List (Nat × Cell) :=
  List.zipWith (fun p b => (256 * p.1 + p.2, ⟨.data, b⟩)) cells bits

/-- PLACE after its precondition. A count that does not match is INTERNAL, where the model is stuck (R285, R286,
R406; log entry 6). -/
def placeBody (s : State) : Result :=
  match readFrame s with
  | none => .fault (.unwritten .frame)
  | some rows =>
    match readSequence s (totalCodewords s.frameVersion) with
    | none => .fault (.unwritten .seq)
    | some seq =>
      let cells := order s.frameWidth rows
      let bits := placedBits s.frameVersion seq
      if cells.length ≠ bits.length then .fault .internal
      else
        .next { s with
          frame := s.frame.writeAll (placements cells bits)
          status := { s.status with plcd := true }
          job := { s.job with plcLvl := s.job.seqLvl } }

/-- PLACE (R285). -/
def execPlace (s : State) : Result :=
  if s.cannotPlace then .next (raiseError (Instr.opc .place) .sequence s)
  else andThen (placeBody s) fun t => .next (completeOk t)

end Sys2Proof.Machine
end

