-- ==== Sys2Proof/Machine/Masking.lean ====
section
/-! DEFINITION. MAPPLY, MEVAL and MSEL (spec/43 R331–R335). -/

namespace Sys2Proof.Machine

/-- SYM(m) of the placed frame with the given rows (R322). -/
def State.symbol (s : State) (rows : List (List Cell)) (m : Fin 8) : List (List Bool) :=
  symRows s.frameWidth s.job.plcLvl m rows

/-- PENALTY(SYM(m)) (R329). -/
def State.maskPenalty (s : State) (rows : List (List Cell)) (m : Fin 8) : Nat :=
  penalty s.frameWidth (s.symbol rows m)

/-- MATRIX ← the symbol S of mask m, MATV ← 1, MAT_MASK ← m (R331, R334). -/
def showSymbol (S : List (List Bool)) (m : Fin 8) (s : State) : State :=
  { s with matrix := matrixImage S, status := { s.status with matv := true }, matMask := m }

/-- MAPPLY m (R331). -/
def execMapply (m : Fin 8) (s : State) : Result :=
  if !s.status.plcd then .next (raiseError (Instr.opc (.mapply m)) .sequence s)
  else
    match readFrame s with
    | none => .fault (.unwritten .frame)
    | some rows => .next (completeOk (showSymbol (s.symbol rows m) m s))

/-- MEVAL m (R332). -/
def execMeval (m : Fin 8) (s : State) : Result :=
  if !s.status.plcd then .next (raiseError (Instr.opc (.meval m)) .sequence s)
  else
    match readFrame s with
    | none => .fault (.unwritten .frame)
    | some rows => .next (completeOk { s with pen := s.pen.set m (BitVec.ofNat 32 (s.maskPenalty rows m)) })

/-- The candidates, ascending, with their penalties (R334, R335). -/
def State.candidates (s : State) (rows : List (List Cell)) : List (Fin 8 × Nat) :=
  (maskIds.filter s.maskEnabled).map fun m => (m, s.maskPenalty rows m)

/-- PEN after MSEL: a candidate's penalty, "not evaluated" for the others (R334). -/
def penaltyFile (cands : List (Fin 8 × Nat)) : Vector Word 8 :=
  cands.foldl (fun pen c => pen.set c.1 (BitVec.ofNat 32 c.2)) noPenalties

/-- MSEL after its checks: PEN[0..7] and the symbol of the first candidate of the lowest penalty (R334). Without a
candidate, which BADMASK has ruled out, only PEN is written. -/
def mselBody (s : State) : Result :=
  match readFrame s with
  | none => .fault (.unwritten .frame)
  | some rows =>
    let cands := s.candidates rows
    let t := { s with pen := penaltyFile cands }
    match firstMinimum none cands with
    | none => .next t
    | some best => .next (showSymbol (s.symbol rows best.1) best.1 t)

/-- MSEL (R334): BADMASK before SEQUENCE (R402). -/
def execMsel (s : State) : Result :=
  if s.config.maskEn = 0 then .next (raiseError (Instr.opc .msel) .badmask s)
  else if !s.status.plcd then .next (raiseError (Instr.opc .msel) .sequence s)
  else andThen (mselBody s) fun t => .next (completeOk t)

end Sys2Proof.Machine
end

