-- ==== Sys2Proof/Machine/ReedSolomon.lean ====
section
/-! DEFINITION. RSENC and ECCBLD (spec/40 R208, R223–R225). -/

namespace Sys2Proof.Machine

/-- RSENC K, NR (R208). -/
def execRsenc (k nr : Nat) (s : State) : Result :=
  if badRsOperands k nr s.rsSrc.toNat then .next (raiseError (Instr.opc (.rsenc k nr)) .badrs s)
  else
    match readData s s.rsSrc.toNat k with
    | none => .fault (.unwritten .dbuf)
    | some d => .next (completeOk { s with pbuf := s.pbuf.writeRun 0 (rsParity d nr) })

/-- ECCBLD after its check: SEQ[0..T−1], SEQV, JOB.SEQ_VER, JOB.SEQ_LVL, SEQ_LEN (R225). -/
def eccbldBody (s : State) : Result :=
  let b := blockPlan s.version s.config.level
  match readData s 0 b.dataCodewords with
  | none => .fault (.unwritten .dbuf)
  | some d =>
    .next { s with
      seq := s.seq.writeRun 0 (codewordSequence b d)
      status := { s.status with seqv := true }
      job := { s.job with seqVer := s.config.version, seqLvl := s.config.level }
      seqLen := ⟨BitVec.ofNat 12 (totalCodewords s.version), BitVec.ofNat 12 b.dataCodewords⟩ }

/-- ECCBLD (R225). -/
def execEccbld (s : State) : Result :=
  if !legalVersion s.version then .next (raiseError (Instr.opc .eccbld) .badver s)
  else andThen (eccbldBody s) fun t => .next (completeOk t)

end Sys2Proof.Machine
end

