-- ==== Sys2Proof/Machine/Control.lean ====
section
/-! DEFINITION. NOP, SRST and ENCODE (spec/44 R370–R372). -/

namespace Sys2Proof.Machine

/-- NOP: no operation (R370). -/
def execNop (s : State) : Result := .next (completeOk s)

/-- SRST: the reset of R450; DONE stays 0 (R371). -/
def execSrst (s : State) : Result := .next (applyReset s)

/-- The bodies of ECCBLD, FRMINIT, PLACE and MSEL in that order (R372). -/
def encodeBody (s : State) : Result :=
  andThen (andThen (andThen (eccbldBody s) frminitBody) placeBody) mselBody

/-- ENCODE (R372): BADVER before BADMASK, both before any write. -/
def execEncode (s : State) : Result :=
  if !legalVersion s.version then .next (raiseError (Instr.opc .encode) .badver s)
  else if s.config.maskEn = 0 then .next (raiseError (Instr.opc .encode) .badmask s)
  else andThen (encodeBody s) fun t => .next (completeOk t)

end Sys2Proof.Machine
end

