-- ==== Sys2Proof/Machine/Dispatch.lean ====
section
/-! DEFINITION. One arm per command. -/

namespace Sys2Proof.Machine

def exec (i : Instr) (s : State) : Host.Outcome State Fault Refusal :=
  match i with
  | .nop => Sys2Proof.Machine.execNop s
  | .srst => Sys2Proof.Machine.execSrst s
  | .rsenc k nr => Sys2Proof.Machine.execRsenc k nr s
  | .eccbld => Sys2Proof.Machine.execEccbld s
  | .frminit => Sys2Proof.Machine.execFrminit s
  | .place => Sys2Proof.Machine.execPlace s
  | .mapply m => Sys2Proof.Machine.execMapply m s
  | .meval m => Sys2Proof.Machine.execMeval m s
  | .msel => Sys2Proof.Machine.execMsel s
  | .fmtinfo lvl m => Sys2Proof.Machine.execFmtinfo lvl m s
  | .verinfo v => Sys2Proof.Machine.execVerinfo v s
  | .encode => Sys2Proof.Machine.execEncode s

end Sys2Proof.Machine
end

