-- ==== Sys2Proof/Machine/HostBus.lean ====
section
/-! DEFINITION. The host's side of the bus: the address map, which accesses are legal, what a read returns and a write
does, and the host-program notation (spec/20, spec/30 R148, spec/70 R461, R462). -/

namespace Sys2Proof.Machine

/-- What an address stands for (R101). -/
inductive Target
  | id | config | cmd | status | errinfo | rsSrc | result | job | bchOut | seqLen
  | pen (m : Fin 8)
  | dbuf | seq | pbuf | exp | log | frame | matrix
  deriving DecidableEq, Repr

/-- A row of the address map. -/
structure MapRow where
  base : Nat
  size : Nat
  target : Target
  writable : Bool
  widths : List Width
  deriving DecidableEq, Repr

/-- The widths of a register (R102). -/
def registerWidths : List Width := [.word]

/-- The widths of a buffer or table (R102). -/
def bufferWidths : List Width := [.byte, .half, .word]

/-- The address map (R101); an address in no row is unmapped. -/
def memoryMap : List MapRow :=
  [ ⟨0x00000, 4, .id, false, registerWidths⟩,
    ⟨0x00004, 4, .config, true, registerWidths⟩,
    ⟨0x00008, 4, .cmd, true, registerWidths⟩,
    ⟨0x0000C, 4, .status, true, registerWidths⟩,
    ⟨0x00010, 4, .errinfo, false, registerWidths⟩,
    ⟨0x00014, 4, .rsSrc, true, registerWidths⟩,
    ⟨0x00018, 4, .result, false, registerWidths⟩,
    ⟨0x0001C, 4, .job, false, registerWidths⟩,
    ⟨0x00020, 4, .bchOut, false, registerWidths⟩,
    ⟨0x00024, 4, .seqLen, false, registerWidths⟩ ] ++
  maskIds.map (fun m => ⟨0x00040 + 4 * m.val, 4, .pen m, false, registerWidths⟩) ++
  [ ⟨0x01000, 4096, .dbuf, true, bufferWidths⟩,
    ⟨0x02000, 4096, .seq, false, bufferWidths⟩,
    ⟨0x03000, 256, .pbuf, false, bufferWidths⟩,
    ⟨0x03100, 256, .exp, false, bufferWidths⟩,
    ⟨0x03200, 256, .log, false, bufferWidths⟩,
    ⟨0x10000, 45312, .frame, false, bufferWidths⟩,
    ⟨0x20000, 45312, .matrix, false, bufferWidths⟩ ]

/-- The bytes of a width (R102). -/
def Width.bytes : Width → Nat
  | .byte => 1
  | .half => 2
  | .word => 4

/-- The row that holds the whole range a..a+n−1, if any. -/
def rowOf (a n : Nat) : Option MapRow :=
  memoryMap.find? fun row => decide (row.base ≤ a) && decide (a + n ≤ row.base + row.size)

/-- A legal access (R102): aligned, inside one row, of a width the row lists, and a write only to a writable row.
It gives what is accessed and at which offset; none is a bus error (R103). -/
def legalAccess (isWrite : Bool) (w : Width) (a : Addr) : Option (Target × Nat) :=
  if a.toNat % w.bytes ≠ 0 then none
  else
    match rowOf a.toNat w.bytes with
    | none => none
    | some row =>
      if row.widths.contains w && (!isWrite || row.writable) then some (row.target, a.toNat - row.base) else none

/-- The byte at an offset of a buffer or table, as the host reads it while BUSY = 0; none where nothing has been
written since reset, and for registers, which have no bytes. Columns 177..255 of FRAME and MATRIX read 0 (R48, R49,
R51, R101). DEDUCED, where U10 can be read otherwise: they do so before the first FRMINIT, MAPPLY or MSEL too (log
entry 28). -/
def windowByte (s : State) (t : Target) (off : Nat) : Option Byte :=
  match t with
  | .dbuf => s.dbuf.read off
  | .seq => s.seq.read off
  | .pbuf => s.pbuf.read off
  | .exp => some (expEntry off)
  | .log => some (BitVec.ofNat 8 (logEntry (BitVec.ofNat 8 off)))
  | .frame => if 177 ≤ off % 256 then some 0 else (s.frame.read off).map Cell.byte
  | .matrix => if 177 ≤ off % 256 then some 0 else (s.matrix.read off).map moduleByte
  | _ => none

/-- The byte of a buffer or table at a host address, while BUSY = 0. -/
def State.byteAt (s : State) (a : Nat) : Option Byte :=
  match rowOf a 1 with
  | none => none
  | some row => windowByte s row.target (a - row.base)

/-- n bytes of a buffer or table from an offset on. -/
def windowBytes (s : State) (t : Target) : Nat → Nat → Option (List Byte)
  | _, 0 => some []
  | off, n + 1 =>
    match windowByte s t off, windowBytes s t (off + 1) n with
    | some b, some bs => some (b :: bs)
    | _, _ => none

/-- Bytes from the lowest address up as one word (R104). -/
def littleEndian : List Byte → Word
  | [] => 0
  | b :: bs => (littleEndian bs <<< 8) ||| b.setWidth 32

/-- The n low bytes of a word, from the lowest address up (R104). -/
def bytesOf (v : Word) (n : Nat) : List Byte := (List.range n).map fun j => v.extractLsb' (8 * j) 8

/-- What a legal read finds. -/
inductive ReadValue
  /-- This value. -/
  | value (v : Word)
  /-- Any value of the access's width (R462). -/
  | anyValue
  /-- STATUS while a command is in flight: its valid flags are any value (R462). -/
  | anyValid
  /-- A buffer entry nothing has written since reset (R452). -/
  | unwritten (b : Buffer)
  deriving DecidableEq, Repr

/-- The value in a buffer or table. -/
def bufferValue (s : State) (t : Target) (b : Buffer) (off : Nat) (w : Width) : ReadValue :=
  match windowBytes s t off w.bytes with
  | some bs => .value (littleEndian bs)
  | none => .unwritten b

/-- The value in a constant table, every byte of which is there (R51). -/
def tableValue (s : State) (t : Target) (off : Nat) (w : Width) : Word :=
  littleEndian ((windowBytes s t off w.bytes).getD [])

/-- A result register or buffer: any value while BUSY = 1 (R462). -/
def resultValue (s : State) (v : ReadValue) : ReadValue := if s.busy then .anyValue else v

/-- What a legal read of a target finds (R33–R51, R462). -/
def readTarget (s : State) (t : Target) (off : Nat) (w : Width) : ReadValue :=
  match t with
  | .id => .value idWord
  | .config => .value s.config.word
  | .cmd => .value s.lastCmd
  | .status => if s.busy then .anyValid else .value (statusWord false s.status)
  | .errinfo => .value s.errinfo.word
  | .rsSrc => .value (rsSrcWord s.rsSrc)
  | .result => resultValue s (.value (resultWord s.matMask))
  | .job => resultValue s (.value s.job.word)
  | .bchOut => resultValue s (.value (bchOutWord s.bchOut))
  | .seqLen => resultValue s (.value s.seqLen.word)
  | .pen m => resultValue s (.value s.pen[m])
  | .dbuf => bufferValue s .dbuf .dbuf off w
  | .seq => resultValue s (bufferValue s .seq .seq off w)
  | .pbuf => resultValue s (bufferValue s .pbuf .pbuf off w)
  | .exp => .value (tableValue s .exp off w)
  | .log => .value (tableValue s .log off w)
  | .frame => resultValue s (bufferValue s .frame .frame off w)
  | .matrix => resultValue s (bufferValue s .matrix .matrix off w)

/-- The low bytes of a word that an access of a width carries. -/
def Width.truncate (w : Width) (v : Word) : Word :=
  match w with
  | .byte => (v.setWidth 8).setWidth 32
  | .half => (v.setWidth 16).setWidth 32
  | .word => v

/-- The host receives v. -/
def respond (v : Word) (s : State) : State := { s with response := .data v }

/-- The next free value is drawn. -/
def drawFree (s : State) : State := { s with freeCount := s.freeCount + 1 }

/-- A host read: a bus error, or the data; it changes nothing of QRSB (R103, R107). -/
def hostRead (w : Width) (a : Addr) (s : State) : Result :=
  match legalAccess false w a with
  | none => .fault (.busError w a)
  | some (t, off) =>
    match readTarget s t off w with
    | .value v => .next (respond v s)
    | .anyValue => .next (respond (w.truncate (Config.freeRead s.freeCount)) (drawFree s))
    | .anyValid =>
      .next (respond (statusWord true (s.status.withFreeValid (Config.freeRead s.freeCount))) (drawFree s))
    | .unwritten b => .fault (.unwritten b)

/-- A write to an input of the block: discarded while BUSY = 1 (R461). -/
def writeInput (s : State) (t : State) : State := if s.busy then discard s else t

/-- What a legal write to a target does (R34–R38, R44, R107, R400, R461). -/
def writeTarget (s : State) (t : Target) (off : Nat) (w : Width) (v : Word) : State :=
  match t with
  | .config => writeInput s { s with config := ConfigReg.ofWord v }
  | .cmd => submit v s
  | .status => acknowledge v s
  | .rsSrc => writeInput s { s with rsSrc := v.extractLsb' 0 12 }
  | .dbuf => writeInput s { s with dbuf := s.dbuf.writeRun off (bytesOf v w.bytes) }
  | _ => s

/-- A host write: a bus error, or its effect (R103, R107). -/
def hostWrite (w : Width) (a : Addr) (v : Word) (s : State) : Result :=
  match legalAccess true w a with
  | none => .fault (.busError w a)
  | some (t, off) => .next { writeTarget s t off w v with response := .written }

/-- The physical address of a window offset: QRSB_BASE is added on the host's side, and QRSB decodes the low 18 bits
only (D2, U14). -/
def physicalAddress (a : Addr) : Nat := Config.qrsbBase + a.toNat

/-! The host-program notation of R148, as events. -/

/-- `CMD c`: a write of c's word to CMD. -/
def cmdEvents (i : Instr) : List Event := [.write .word 0x00008 (encode i)]

/-- `WAIT`: `polls` reads of STATUS that find BUSY = 1, the completion, and the read that finds BUSY = 0. -/
def waitEvents (polls : Nat) : List Event :=
  List.replicate polls (.read .word 0x0000C) ++ [.engine, .read .word 0x0000C]

/-- `RUN c`: `CMD c`, then `WAIT`. -/
def runEvents (polls : Nat) (i : Instr) : List Event := cmdEvents i ++ waitEvents polls

/-- `CFG v, lvl, en, ie`, all four operands written (R148). -/
def cfgEvents (v : BitVec 6) (lvl : Level) (en : BitVec 8) (ie : Bool) : List Event :=
  [.write .word 0x00004 (ConfigReg.word ⟨v, lvl, en, ie⟩)]

/-- `CFG v, lvl`: all eight candidates, interrupt off; the form programs use (R148, C12). -/
def cfgDefaultEvents (v : BitVec 6) (lvl : Level) : List Event := cfgEvents v lvl 0xFF false

/-- `SRC off`. -/
def srcEvents (off : Word) : List Event := [.write .word 0x00014 off]

/-- `LOAD i, b0, b1, …`. -/
def loadEvents (i : Nat) : List Byte → List Event
  | [] => []
  | b :: bs => .write .byte (BitVec.ofNat 18 (0x01000 + i)) (b.setWidth 32) :: loadEvents (i + 1) bs

/-- `CLR`: clears DONE, ERR and OVR. -/
def clrEvents : List Event := [.write .word 0x0000C 0x0000000E]

end Sys2Proof.Machine
end

