-- ==== Sys2Proof/Machine/Engine.lean ====
section
/-! DEFINITION. One event: the engine's turn, a host access, a change of the reset input (spec/60 R400, R403;
spec/70 R450, R470). -/

namespace Sys2Proof.Machine

/-- The engine's turn: the command in flight is decoded, executed and completed; an idle engine does nothing
(R403, R417, R451). -/
def engineTurn (s : State) : Result :=
  match s.inflight with
  | none => .next s
  | some x =>
    match decode x with
    | .ok i => exec i s
    | .error _ => .next (completeIllegal x s)

/-- The reset input is asserted or released. While it is asserted, and when it is released, every piece of state takes
its reset value (R450). -/
def changeReset (asserted : Bool) (s : State) : State :=
  if asserted || s.resetPin then { applyReset s with resetPin := asserted } else s

/-- What an event does. A host access while reset is asserted has no meaning (R450, U12). -/
def perform (e : Event) (s : State) : Result :=
  match e with
  | .engine => engineTurn s
  | .resetInput b => .next (changeReset b s)
  | .read w a => if s.resetPin then .refused .accessDuringReset else hostRead w a s
  | .write w a v => if s.resetPin then .refused .accessDuringReset else hostWrite w a v s

/-- A word x in flight, accepted, with the engine's turn next: how a command comes to run (R400; log entry 10). -/
def inFlightNext (x : Word) (s : State) : State := { accept x s with agenda := .engine :: s.agenda }

end Sys2Proof.Machine
end

