-- ==== Sys2Proof/Machine/Step.lean ====
section
/-! DEFINITION. One step of the machine: the next event of the agenda. With nothing left on it, the command in flight
completes (every command completes, R470), and an idle block waits (R451). -/

namespace Sys2Proof.Machine

/-- One step. -/
def step (s : State) : Host.Outcome State Fault Refusal :=
  match s.agenda with
  | [] => engineTurn s
  | e :: rest => perform e { s with agenda := rest }

/-- s with the command whose bits are w in flight and the engine's turn next, so that the very next step decodes and
runs it: where QRSB "fetches" its next command is INFLIGHT (R55; log entry 10). -/
def State.withFetchWord (s : State) (nbits w : Nat) : State := inFlightNext (tableWord nbits w) s

end Sys2Proof.Machine
end

