-- ==== Sys2Proof/Safety.lean ====
section
/-! DEFINITION. What a sound state is, in the terms the statements use: the meaning STATUS's flags carry (spec/10 R36,
R47, R49), the canonical form of the buffers, and a symbol cell by cell (spec/43 R322). -/

namespace Sys2Proof.Machine

/-- Every buffer is in canonical form. -/
def State.memoryWf (s : State) : Bool := s.dbuf.wf && s.seq.wf && s.pbuf.wf && s.frame.wf && s.matrix.wf

/-- An index of a cell of the 177×177 grid: 256·row + column. -/
def gridIndex (k : Nat) : Bool := decide (k / 256 < 177) && decide (k % 256 < 177)

/-- Every listed index exists: DBUF and SEQ have 4096 bytes, PBUF 256, FRAME and MATRIX 177×177 cells (R30). -/
def State.inBounds (s : State) : Bool :=
  s.dbuf.below 4096 && s.seq.below 4096 && s.pbuf.below 256
    && s.frame.all (fun e => gridIndex e.1) && s.matrix.all (fun e => gridIndex e.1)

/-- BUSY, DONE, ERR and ERRINFO belong together (R36, R37, R400, R403, R408). -/
structure State.StatusConsistent (s : State) : Prop where
  /-- While a command runs, DONE = 0 and ERR = 0 (R462). -/
  busyQuiet : s.busy = true → s.status.done = false ∧ s.status.err = false
  /-- ERRINFO is 0 while ERR = 0 (R401). -/
  clearWithoutError : s.status.err = false → s.errinfo = ErrInfoReg.clear
  /-- While ERR = 1, ERRINFO holds the code of an error. -/
  codeWithError : s.status.err = true → s.errinfo.code ≠ .none
  /-- INTERNAL is never recorded: the model is stuck there (R406; log entry 6). -/
  neverInternal : s.errinfo.code ≠ .internal

/-- While the reset input is asserted, every piece of state is at its reset value (R450). -/
def State.heldInReset (s : State) : Prop := s.resetPin = true → s = applyReset s

/-- A grid by rows. -/
def gridRows {α : Type} (w : Nat) (F : Nat → Nat → α) : List (List α) :=
  (List.range w).map fun r => (List.range w).map fun c => F r c

/-- The w×w frame in FRAME holds the cells F (R47). -/
def State.frameIs (s : State) (F : Nat → Nat → Cell) : Prop :=
  ∀ r c, r < s.frameWidth → c < s.frameWidth → s.frame.read (256 * r + c) = some (F r c)

/-- (r, c) is one of the format-information cells (R287). -/
def formatPosition (w r c : Nat) : Prop := ∃ k, k ≤ 14 ∧ (fmtPos1 k = (r, c) ∨ fmtPos2 w k = (r, c))

/-- S is SYM(m) of the w×w frame F at level lvl: the format word's bits at the format positions, and elsewhere the
frame's bit, inverted exactly at the DATA cells that mask m selects (R320, R322). -/
def isSymbol (w : Nat) (lvl : Level) (m : Fin 8) (F : Nat → Nat → Cell) (S : Nat → Nat → Bool) : Prop :=
  (∀ k, k ≤ 14 → S (fmtPos1 k).1 (fmtPos1 k).2 = (formatWord lvl m).getLsbD k ∧
    S (fmtPos2 w k).1 (fmtPos2 w k).2 = (formatWord lvl m).getLsbD k) ∧
  ∀ r c, r < w → c < w → ¬ formatPosition w r c →
    S r c = if (F r c).kind = .data ∧ maskFn m r c = true then !(F r c).bit else (F r c).bit

/-- What FRAME holds at a cell of the 177×177 grid: the cell FRMINIT drew for version v, but that an EMPTY cell of the
w×w frame has become DATA once the frame is placed (R36, R47). -/
def cellOfFrame (v : Nat) (placed : Bool) (r c : Nat) (cell : Cell) : Prop :=
  if placed = true ∧ r < symbolWidth v ∧ c < symbolWidth v ∧ (drawnCell v r c).kind = .empty then cell.kind = .data
  else cell = drawnCell v r c

/-- FRMINIT with CONFIG.VERSION = v leaves this cell at (r, c), whatever the state before. -/
def frminitDraws (v r c : Nat) (cell : Cell) : Prop :=
  ∀ s : State, s.version = v → ∃ t, exec .frminit s = .next t ∧ t.frame.read (256 * r + c) = some cell

/-- The cell that a character of R280's printed frame stands for. -/
def printedCell : Char → Cell
  | '#' => ⟨.func, true⟩
  | '.' => ⟨.func, false⟩
  | 'f' => ⟨.rsvd, false⟩
  | _ => ⟨.empty, false⟩

/-- The value of a polynomial at x, its coefficients from the highest degree down (R205). -/
def evalPoly (p : List Byte) (x : Byte) : Byte := p.foldl (fun acc a => gfMul acc x ^^^ a) 0x00

/-- The polynomial product of a and b over GF(2), not reduced (R200, R203). -/
def polyProduct (a b : Nat) : Nat := (List.range 8).foldl (fun acc i => if b.testBit i then acc ^^^ (a <<< i) else acc) 0

/-- The right column of the column pair that holds column x of a frame (R283): (w−1, w−2), …, (8, 7), then (5, 4),
(3, 2), (1, 0). -/
def pairColumn (x : Nat) : Nat := if 6 < x then x + x % 2 else x + (1 - x % 2)

/-- The traversal visits cell p before cell q (R283): pairs from right to left, upward in a pair whose right column x
has ((x + 1) & 2) = 0 and downward in the others, the right cell of a row before the left. -/
def visitedBefore (p q : Nat × Nat) : Prop :=
  pairColumn q.2 < pairColumn p.2 ∨
    (pairColumn p.2 = pairColumn q.2 ∧
      ((if (pairColumn p.2 + 1) &&& 2 = 0 then q.1 < p.1 else p.1 < q.1) ∨ (p.1 = q.1 ∧ q.2 < p.2)))

/-- R327 word for word at run index t: a dark run of 3u, two runs of u on either side, and a light margin of 4u, or
the end of the line, on at least one side. -/
def patternAt (rs : List (Bool × Nat)) (t : Nat) : Bool :=
  let len := fun i => (rs.getD i (false, 0)).2
  let u := len (t - 1)
  decide (1 ≤ u) && (rs.getD t (false, 0)).1 && decide (len t = 3 * u)
    && decide (2 ≤ t) && decide (t + 2 < rs.length)
    && decide (len (t - 2) = u) && decide (len (t + 1) = u) && decide (len (t + 2) = u)
    && (decide (t < 3) || decide (4 * u ≤ len (t - 3)) || decide (rs.length ≤ t + 3) || decide (4 * u ≤ len (t + 3)))

/-- The valid flags mean what R36 says they mean. -/
structure State.FlagsHonest (s : State) : Prop where
  /-- SEQV: SEQ holds the interleaved codewords of some data for JOB.SEQ_VER and JOB.SEQ_LVL, and SEQ_LEN their
  counts. -/
  seqv : s.status.seqv = true → legalVersion s.job.seqVer.toNat = true ∧
    s.seqLen = ⟨BitVec.ofNat 12 (totalCodewords s.job.seqVer.toNat),
      BitVec.ofNat 12 (dataCodewords s.job.seqVer.toNat s.job.seqLvl)⟩ ∧
    ∃ d, d.length = dataCodewords s.job.seqVer.toNat s.job.seqLvl ∧
      readSequence s (totalCodewords s.job.seqVer.toNat) =
        some (codewordSequence (blockPlan s.job.seqVer.toNat s.job.seqLvl) d)
  /-- FRMV: FRAME holds a frame built for JOB.FRM_VER; PLCD: its data cells are all placed. -/
  frmv : s.status.frmv = true → legalVersion s.frameVersion = true ∧
    ∀ r c, r < 177 → c < 177 → ∃ cell, s.frame.read (256 * r + c) = some cell ∧
      cellOfFrame s.frameVersion s.status.plcd r c cell
  /-- A placed frame is a frame. -/
  plcd : s.status.plcd = true → s.status.frmv = true
  /-- MATV: the frame is placed, and MATRIX holds it masked with RESULT.MAT_MASK, with its format information. -/
  matv : s.status.matv = true → s.status.plcd = true ∧
    ∃ rows, readFrame s = some rows ∧ s.matrix = matrixImage (s.symbol rows s.matMask)

/-- Each penalty register holds "not evaluated" or a penalty below R333's bound. -/
def State.penaltiesBounded (s : State) : Prop :=
  ∀ m : Fin 8, s.pen[m] = notEvaluated ∨ s.pen[m].toNat < 1415219

/-- The invariant of the machine. -/
structure State.Inv (s : State) : Prop where
  memoryWf : s.memoryWf = true
  inBounds : s.inBounds = true
  status : s.StatusConsistent
  held : s.heldInReset
  flags : s.FlagsHonest
  penalties : s.penaltiesBounded

end Sys2Proof.Machine
end

