-- ==== Sys2Proof/Certificates/Slice0/Obligations.lean ====
section
/-! DEFINITION. The statements about QRSB, in the order of the spec's files. -/

open Sys2Proof Sys2Proof.Machine

/-! Encoding and decoding (spec/30). -/

/-- R149: the words of its examples, which command each stands for, and which words are no command. -/
def Obligations.SpecsExampleWordsDecode : Prop :=
  decode 0x000A1010 = .ok (.rsenc 16 10) ∧ decode 0x00000A40 = .ok (.fmtinfo .m 2) ∧
  decode 0x00000741 = .ok (.verinfo 7) ∧ decode 0x00000530 = .ok (.mapply 5) ∧
  decode 0x00000731 = .ok (.meval 7) ∧ decode 0x00000130 = .ok (.mapply 1) ∧
  decode 0x00000830 = .error .reservedBits ∧ decode 0x00000002 = .error .unassignedOpcode ∧
  decode 0x01000010 = .error .reservedBits ∧
  encode (.rsenc 16 10) = 0x000A1010 ∧ encode (.fmtinfo .m 2) = 0x00000A40 ∧ encode (.verinfo 7) = 0x00000741 ∧
  encode (.mapply 5) = 0x00000530 ∧ encode (.meval 7) = 0x00000731

/-- Decoding the word of a well-formed command gives the command back, every operand included (R147). -/
def Obligations.DecodeOfEncodeIsTheCommand : Prop :=
  ∀ i : Instr, i.wellFormed = true → decode (encode i) = .ok i

/-- A word that decodes is the word of its command, which is well formed: no two words stand for one command. -/
def Obligations.EncodeOfDecodeIsTheWord : Prop :=
  ∀ (x : Word) (i : Instr), decode x = .ok i → i.wellFormed = true ∧ encode i = x

/-- R143: the opcode map, and a word decodes to a command exactly when it matches the command's row, no word matches
two rows, and a word that matches none is rejected. -/
def Obligations.DecodeFollowsTheOpcodeMap : Prop :=
  opcodeMap.map (fun row => (row.op, row.pattern, row.mask)) =
    [(.nop, 0x00000000, 0xFFFFFFFF), (.srst, 0x00000001, 0xFFFFFFFF), (.rsenc, 0x00000010, 0xFF0000FF),
     (.eccbld, 0x00000011, 0xFFFFFFFF), (.frminit, 0x00000020, 0xFFFFFFFF), (.place, 0x00000021, 0xFFFFFFFF),
     (.mapply, 0x00000030, 0xFFFFF8FF), (.meval, 0x00000031, 0xFFFFF8FF), (.msel, 0x00000032, 0xFFFFFFFF),
     (.fmtinfo, 0x00000040, 0xFFFFE0FF), (.verinfo, 0x00000041, 0xFFFFC0FF), (.encode, 0x00000050, 0xFFFFFFFF)] ∧
  ∀ x : Word,
    (∀ i, decode x = .ok i ↔ ∃ row ∈ opcodeMap, x &&& row.mask = row.pattern ∧ i = withOperands row.op x) ∧
    (∀ r₁ ∈ opcodeMap, ∀ r₂ ∈ opcodeMap, x &&& r₁.mask = r₁.pattern → x &&& r₂.mask = r₂.pattern → r₁ = r₂) ∧
    ((∀ row ∈ opcodeMap, x &&& row.mask ≠ row.pattern) → ∃ r, decode x = .error r)

/-- R145: which words are illegal, and that an illegal word in flight completes with ILLEGAL and changes nothing else;
an operand out of its legal range is no illegal encoding. -/
def Obligations.IllegalWordsCompleteWithIllegal : Prop :=
  (∀ x : Word, (∃ r, decode x = .error r) ↔
    (opcField x ∉ [0x00, 0x01, 0x10, 0x11, 0x20, 0x21, 0x30, 0x31, 0x32, 0x40, 0x41, 0x50]) ∨
    (opcField x ∈ [0x00, 0x01, 0x11, 0x20, 0x21, 0x32, 0x50] ∧ x >>> 8 ≠ 0) ∨
    (opcField x = 0x10 ∧ x >>> 24 ≠ 0) ∨
    (opcField x ∈ [0x30, 0x31] ∧ x >>> 11 ≠ 0) ∨
    (opcField x = 0x40 ∧ x >>> 13 ≠ 0) ∨
    (opcField x = 0x41 ∧ x >>> 14 ≠ 0)) ∧
  ((List.range 256).filter fun o => !opcodeMap.any fun row => opcField row.pattern == BitVec.ofNat 8 o).length = 244 ∧
  (∀ (s : State) (x : Word) (r : Reject), s.agenda = [] → s.inflight = some x → decode x = .error r →
    step s = .next { s with
      errinfo := ⟨opcField x, .illegal⟩
      status := { s.status with err := true, done := true }
      inflight := none }) ∧
  (∀ k nr, k ≤ 255 → nr ≤ 255 → ∃ i, decode (encode (.rsenc k nr)) = .ok i) ∧
  (∀ v, v ≤ 63 → ∃ i, decode (encode (.verinfo v)) = .ok i)

/-! Steps, acceptance, completion and errors (spec/60, spec/70). -/

/-- When the word in flight decodes to i, the engine's turn is exec of i: as the next event of the agenda, with the
agenda empty (every command completes), and after `withFetchWord`. An idle block waits. The agenda and `withFetchWord` are the
model's choice (log entries 1, 10). -/
def Obligations.StepRunsTheDecodedCommand : Prop :=
  (∀ (s : State) (rest : List Event) (x : Word) (i : Instr), s.inflight = some x → decode x = .ok i →
    s.agenda = .engine :: rest → step s = exec i { s with agenda := rest }) ∧
  (∀ (s : State) (x : Word) (i : Instr), s.inflight = some x → decode x = .ok i →
    s.agenda = [] → step s = exec i s) ∧
  (∀ (s : State) (w : Nat) (i : Instr), decode (BitVec.ofNat 32 w) = .ok i → w < 2 ^ 32 →
    step (s.withFetchWord 32 w) =
      exec i { s with lastCmd := BitVec.ofNat 32 w, status := { s.status with done := false },
                      inflight := some (BitVec.ofNat 32 w) }) ∧
  (∀ s : State, s.agenda = [] → s.inflight = none → step s = .next s)

/-- R400: a write to CMD is accepted, or discarded with OVR ← 1 while BUSY = 1 or ERR = 1. -/
def Obligations.CmdWriteIsAcceptedOrDiscarded : Prop :=
  ∀ (s : State) (x : Word), s.resetPin = false →
    perform (.write .word 0x00008 x) s = .next
      (if s.inflight ≠ none ∨ s.status.err = true then
        { s with status := { s.status with ovr := true }, response := .written }
      else
        { s with lastCmd := x, status := { s.status with done := false }, inflight := some x, response := .written })

/-- R403: every completion ends BUSY; it sets DONE but for SRST, and an error completion sets ERR and ERRINFO. What the
outside world does is untouched. -/
def Obligations.CompletionSetsDoneAndRecordsErrors : Prop :=
  ∀ (i : Instr) (s t : State), exec i s = .next t →
    t.inflight = none ∧
    (t.status.done = true ↔ i ≠ .srst) ∧
    (i ≠ .srst → (t.status.err = s.status.err ∧ t.errinfo = s.errinfo) ∨
      (t.status.err = true ∧ t.errinfo.opc = i.opc ∧ t.errinfo.code ≠ .none)) ∧
    t.agenda = s.agenda ∧ t.resetPin = s.resetPin ∧ t.response = s.response ∧ t.freeCount = s.freeCount

/-- R404, R405: a command that ends in error changes only ERR, DONE, ERRINFO and INFLIGHT; the codes a command of the
map can end with are BADVER, BADRS, SEQUENCE and BADMASK. -/
def Obligations.ErrorsOnlyRecordThemselves : Prop :=
  ∀ (i : Instr) (s t : State), exec i s = .next t → s.status.err = false → t.status.err = true →
    t = { s with
      errinfo := ⟨i.opc, t.errinfo.code⟩
      status := { s.status with err := true, done := true }
      inflight := none } ∧
    t.errinfo.code ∈ [ErrCode.badver, .badrs, .sequence, .badmask]

/-- When each command ends in an error, and which it reports when several apply (R402). -/
def Obligations.CommandErrorsAndTheirPriority : Prop :=
  ∀ s : State,
    (∀ k nr, k = 0 ∨ nr = 0 ∨ 255 < k + nr ∨ 4096 < s.rsSrc.toNat + k →
      exec (.rsenc k nr) s = .next (raiseError 0x10 .badrs s)) ∧
    (∀ v, v < 7 ∨ 40 < v → exec (.verinfo v) s = .next (raiseError 0x41 .badver s)) ∧
    (s.version = 0 ∨ 40 < s.version →
      exec .eccbld s = .next (raiseError 0x11 .badver s) ∧
      exec .frminit s = .next (raiseError 0x20 .badver s) ∧
      exec .encode s = .next (raiseError 0x50 .badver s)) ∧
    (s.status.seqv = false ∨ s.status.frmv = false ∨ s.status.plcd = true ∨ s.job.seqVer ≠ s.job.frmVer →
      exec .place s = .next (raiseError 0x21 .sequence s)) ∧
    (s.status.plcd = false →
      (∀ m, exec (.mapply m) s = .next (raiseError 0x30 .sequence s)) ∧
      (∀ m, exec (.meval m) s = .next (raiseError 0x31 .sequence s)) ∧
      (s.config.maskEn ≠ 0 → exec .msel s = .next (raiseError 0x32 .sequence s))) ∧
    (s.config.maskEn = 0 →
      exec .msel s = .next (raiseError 0x32 .badmask s) ∧
      (1 ≤ s.version → s.version ≤ 40 → exec .encode s = .next (raiseError 0x50 .badmask s)))

/-- R36, R408: a write to STATUS clears the W1C bits written as 1, clearing ERR clears ERRINFO, and nothing else
changes; it is performed even while BUSY = 1. -/
def Obligations.StatusWriteClearsWrittenBits : Prop :=
  ∀ (s : State) (v : Word), s.resetPin = false →
    perform (.write .word 0x0000C v) s = .next { s with
      status := { s.status with
        done := s.status.done && !v.getLsbD 1
        err := s.status.err && !v.getLsbD 2
        ovr := s.status.ovr && !v.getLsbD 3 }
      errinfo := if v.getLsbD 2 then ⟨0, .none⟩ else s.errinfo
      response := .written }

/-- R410: IRQ = DONE AND IE, and it rises only when a command completes or when the host sets IE while DONE = 1. -/
def Obligations.IrqRisesOnlyOnCompletionOrEnable : Prop :=
  (∀ s : State, s.irq = true ↔ s.status.done = true ∧ s.config.ie = true) ∧
  ∀ s t : State, step s = .next t → s.irq = false → t.irq = true →
    (s.inflight ≠ none ∧ t.inflight = none) ∨
    (∃ v rest, s.agenda = .write .word 0x00004 v :: rest ∧ v.getLsbD 24 = true ∧ s.status.done = true)

/-- R461: while BUSY = 1 a legal write to CONFIG, CMD, RS_SRC or DBUF changes nothing but OVR. -/
def Obligations.InputWritesWhileBusyAreDiscarded : Prop :=
  ∀ (s : State) (w : Width) (a : Addr) (v : Word), s.resetPin = false → s.busy = true →
    ((w = .word ∧ (a = 0x00004 ∨ a = 0x00008 ∨ a = 0x00014)) ∨
      (a.toNat % w.bytes = 0 ∧ 0x01000 ≤ a.toNat ∧ a.toNat < 0x02000)) →
    perform (.write w a v) s = .next { s with status := { s.status with ovr := true }, response := .written }

/-- R110, R111: a host access while a command is in flight does not change what the command does: it ends in the same
fault, or in the same state up to OVR and what the host itself was answered. That a command's effect stands at its
completion is the model's choice (log entries 1, 14). -/
def Obligations.HostAccessesDoNotDisturbTheCommand : Prop :=
  ∀ (s t : State) (e : Event), s.busy = true → s.StatusConsistent →
    ((∃ w a, e = .read w a) ∨ (∃ w a v, e = .write w a v)) → perform e s = .next t →
    (∀ r, engineTurn s = .fault r → engineTurn t = .fault r) ∧
    ∀ u, engineTurn s = .next u → ∃ u', engineTurn t = .next u' ∧
      u' = { u with
        status := { u.status with ovr := u'.status.ovr }
        response := u'.response
        freeCount := u'.freeCount }

/-- R462: while BUSY = 1 a read of ID, CONFIG, CMD, ERRINFO, RS_SRC, a DBUF byte that has been written, EXP or LOG gives
its value; STATUS shows BUSY, DONE, ERR, OVR as they stand; every result register and every byte of SEQ, PBUF, FRAME
and MATRIX gives some value, never a fault (log entries 2, 3, 4, 19). -/
def Obligations.ReadsWhileBusy : Prop :=
  ∀ s : State, s.resetPin = false → s.busy = true →
    perform (.read .word 0x00000) s = .next { s with response := .data 0x51520001 } ∧
    perform (.read .word 0x00004) s = .next { s with response := .data s.config.word } ∧
    perform (.read .word 0x00008) s = .next { s with response := .data s.lastCmd } ∧
    perform (.read .word 0x00010) s = .next { s with response := .data s.errinfo.word } ∧
    perform (.read .word 0x00014) s = .next { s with response := .data (rsSrcWord s.rsSrc) } ∧
    (∀ i b, i < 4096 → s.dbuf.read i = some b → perform (.read .byte (BitVec.ofNat 18 (0x01000 + i))) s =
      .next { s with response := .data (b.setWidth 32) }) ∧
    (∀ i, i < 256 → perform (.read .byte (BitVec.ofNat 18 (0x03100 + i))) s =
      .next { s with response := .data ((expEntry i).setWidth 32) }) ∧
    (∀ i, i < 256 → perform (.read .byte (BitVec.ofNat 18 (0x03200 + i))) s =
      .next { s with response := .data (BitVec.ofNat 32 (logEntry (BitVec.ofNat 8 i))) }) ∧
    (∃ v : Word, perform (.read .word 0x0000C) s =
        .next { s with response := .data v, freeCount := s.freeCount + 1 } ∧
      v.getLsbD 0 = true ∧ v.getLsbD 1 = s.status.done ∧ v.getLsbD 2 = s.status.err ∧ v.getLsbD 3 = s.status.ovr ∧
      v >>> 8 = 0) ∧
    (∀ a : Addr, a.toNat % 4 = 0 →
      ((0x00018 ≤ a.toNat ∧ a.toNat ≤ 0x00024) ∨ (0x00040 ≤ a.toNat ∧ a.toNat < 0x00060)) →
      ∃ v, perform (.read .word a) s = .next { s with response := .data v, freeCount := s.freeCount + 1 }) ∧
    (∀ (w : Width) (a : Addr), a.toNat % w.bytes = 0 →
      ((0x02000 ≤ a.toNat ∧ a.toNat < 0x03100) ∨ (0x10000 ≤ a.toNat ∧ a.toNat < 0x1B100) ∨
        (0x20000 ≤ a.toNat ∧ a.toNat < 0x2B100)) →
      ∃ v, perform (.read w a) s = .next { s with response := .data v, freeCount := s.freeCount + 1 })

/-! State, reset and the valid flags (spec/10, spec/70). -/

/-- R57, R33, R410: what the host reads of every register after reset; no interrupt, nothing in flight. -/
def Obligations.RegistersAfterReset : Prop :=
  (∀ p ∈ [((0x00000 : Addr), (0x51520001 : Word)), (0x00004, 0x00FF0000), (0x00008, 0), (0x0000C, 0), (0x00010, 0),
      (0x00014, 0), (0x00018, 0), (0x0001C, 0), (0x00020, 0), (0x00024, 0),
      (0x00040, 0xFFFFFFFF), (0x00044, 0xFFFFFFFF), (0x00048, 0xFFFFFFFF), (0x0004C, 0xFFFFFFFF),
      (0x00050, 0xFFFFFFFF), (0x00054, 0xFFFFFFFF), (0x00058, 0xFFFFFFFF), (0x0005C, 0xFFFFFFFF)],
    hostRead .word p.1 State.reset = .next { State.reset with response := .data p.2 }) ∧
  State.reset.irq = false ∧ State.reset.inflight = none

/-- R450, R371: asserting the reset input, releasing it, and SRST give every piece of state its reset value; a host
access while reset is asserted is refused. The input as an event and a level is the model's choice (log entry 8). -/
def Obligations.ResetInputAndSrstReset : Prop :=
  (∀ s : State, perform (.resetInput true) s = .next { State.reset with
    agenda := s.agenda, resetPin := true, response := s.response, freeCount := s.freeCount }) ∧
  (∀ s : State, s.resetPin = true → perform (.resetInput false) s = .next { State.reset with
    agenda := s.agenda, resetPin := false, response := s.response, freeCount := s.freeCount }) ∧
  (∀ (s : State) (w : Width) (a : Addr) (v : Word), s.resetPin = true →
    perform (.read w a) s = .refused .accessDuringReset ∧ perform (.write w a v) s = .refused .accessDuringReset) ∧
  (∀ s : State, exec .srst s = .next { State.reset with
    agenda := s.agenda, resetPin := s.resetPin, response := s.response, freeCount := s.freeCount })

/-- R34, R38: a write to CONFIG or RS_SRC while BUSY = 0 stores its fields, and the reserved bits read 0. -/
def Obligations.ConfigAndSourceWritesStoreTheirFields : Prop :=
  ∀ (s : State) (v : Word), s.resetPin = false → s.busy = false →
    (∃ c : ConfigReg, perform (.write .word 0x00004 v) s = .next { s with config := c, response := .written } ∧
      c.version = v.extractLsb' 0 6 ∧ c.level.code = v.extractLsb' 8 2 ∧ c.maskEn = v.extractLsb' 16 8 ∧
      c.ie = v.getLsbD 24 ∧ c.word = v &&& 0x01FF033F) ∧
    ∃ o : BitVec 12, perform (.write .word 0x00014 v) s = .next { s with rsSrc := o, response := .written } ∧
      rsSrcWord o = v &&& 0x00000FFF

/-- R36, R50: SEQV, FRMV, PLCD and MATV change only as R36 lists. A step that changes one of them is the turn of a command
of the map, or a change of the reset input that clears all four (not a host access, an illegal word or an idle step); and
what each command does to each flag. -/
def Obligations.ValidFlagsChangeOnlyAsListed : Prop :=
  (∀ s t : State, step s = .next t →
    (t.status.seqv = s.status.seqv ∧ t.status.frmv = s.status.frmv ∧ t.status.plcd = s.status.plcd ∧
      t.status.matv = s.status.matv) ∨
    (∃ x i, s.inflight = some x ∧ decode x = .ok i ∧ exec i { s with agenda := s.agenda.tail } = .next t) ∨
    (∃ b rest, s.agenda = .resetInput b :: rest ∧ t.status.seqv = false ∧ t.status.frmv = false ∧
      t.status.plcd = false ∧ t.status.matv = false)) ∧
  ∀ (i : Instr) (s t : State), exec i s = .next t → s.status.err = false →
    (t.status.seqv = true ↔ i ≠ .srst ∧
      (s.status.seqv = true ∨ (t.status.err = false ∧ (i = .eccbld ∨ i = .encode)))) ∧
    (t.status.frmv = true ↔ i ≠ .srst ∧
      (s.status.frmv = true ∨ (t.status.err = false ∧ (i = .frminit ∨ i = .encode)))) ∧
    (t.status.plcd = true ↔ i ≠ .srst ∧
      ((t.status.err = false ∧ (i = .place ∨ i = .encode)) ∨
        (s.status.plcd = true ∧ ¬ (t.status.err = false ∧ i = .frminit)))) ∧
    (t.status.matv = true ↔ i ≠ .srst ∧
      ((t.status.err = false ∧ (i = .msel ∨ i = .encode ∨ ∃ m, i = .mapply m)) ∨
        (s.status.matv = true ∧ ¬ (t.status.err = false ∧ i = .frminit))))

/-- The state after reset meets the invariant. -/
def Obligations.ResetMeetsTheInvariant : Prop := State.reset.Inv

/-- Every step keeps every buffer in canonical form. -/
def Obligations.StepKeepsMemoryCanonical : Prop :=
  ∀ s t : State, s.memoryWf = true → step s = .next t → t.memoryWf = true

/-- Every step keeps BUSY, DONE, ERR and ERRINFO together (R36, R37). -/
def Obligations.StepKeepsStatusConsistent : Prop :=
  ∀ s t : State, s.StatusConsistent → step s = .next t → t.StatusConsistent

/-- Every step keeps the whole invariant: the buffers' form and bounds, STATUS and ERRINFO, the reset input, the
meaning of SEQV, FRMV, PLCD and MATV, and the penalties' bound. -/
def Obligations.StepKeepsTheInvariant : Prop :=
  ∀ s t : State, s.Inv → step s = .next t → t.Inv

/-- R286, R406: from a state that meets the invariant no step ends in INTERNAL, where the model is stuck (log entry 6). -/
def Obligations.InternalIsUnreachable : Prop :=
  ∀ s : State, s.Inv → step s ≠ .fault .internal

/-! The host's bus (spec/20). -/

/-- R101–R103: a read or write gets a bus error exactly when it is misaligned, unmapped, of a width not listed, or a
write to a read-only row. That the step then ends in a fault is R103's and R407's word (log entry 7). -/
def Obligations.BusErrorsAreExactlyTheIllegalAccesses : Prop :=
  ∀ (s : State) (w : Width) (a : Addr) (v : Word),
    (hostRead w a s = .fault (.busError w a) ↔ ¬ (a.toNat % w.bytes = 0 ∧
      ((w = .word ∧ (a.toNat < 0x00028 ∨ (0x00040 ≤ a.toNat ∧ a.toNat < 0x00060))) ∨
        (0x01000 ≤ a.toNat ∧ a.toNat < 0x03300) ∨ (0x10000 ≤ a.toNat ∧ a.toNat < 0x1B100) ∨
        (0x20000 ≤ a.toNat ∧ a.toNat < 0x2B100)))) ∧
    (hostWrite w a v s = .fault (.busError w a) ↔ ¬ (a.toNat % w.bytes = 0 ∧
      ((w = .word ∧ (a = 0x00004 ∨ a = 0x00008 ∨ a = 0x0000C ∨ a = 0x00014)) ∨
        (0x01000 ≤ a.toNat ∧ a.toNat < 0x02000))))

/-- R107: a read changes nothing but what the host was answered and the count of free values drawn, which are the model's
own fields (log entries 2, 11). -/
def Obligations.ReadsHaveNoSideEffects : Prop :=
  ∀ (s t : State) (w : Width) (a : Addr), perform (.read w a) s = .next t →
    ∃ v n, t = { s with response := .data v, freeCount := n }

/-- R104–R106, R48, R49, R51, R452: while BUSY = 0 a read of a buffer or table, of any width at any aligned address,
answers its bytes, the one at the lowest address in bits [7:0], and faults if one of them has not been written since
reset; and which byte stands at each address of each window. (That columns 177..255 of FRAME and MATRIX read 0 before
the first FRMINIT, MAPPLY or MSEL too is the model's reading, log entry 28; that DBUF faults like the others is its
choice, log entry 4.) -/
def Obligations.BufferReadsAreLittleEndian : Prop :=
  (∀ (s : State) (w : Width) (a : Addr), s.resetPin = false → s.busy = false → a.toNat % w.bytes = 0 →
    ((0x01000 ≤ a.toNat ∧ a.toNat < 0x03300) ∨ (0x10000 ≤ a.toNat ∧ a.toNat < 0x1B100) ∨
      (0x20000 ≤ a.toNat ∧ a.toNat < 0x2B100)) →
    ((∀ j, j < w.bytes → s.byteAt (a.toNat + j) ≠ none) →
      ∃ v : Word, perform (.read w a) s = .next { s with response := .data v } ∧
        (∀ j, j < w.bytes → s.byteAt (a.toNat + j) = some (v.extractLsb' (8 * j) 8)) ∧ v.toNat < 2 ^ (8 * w.bytes)) ∧
    ((∃ j, j < w.bytes ∧ s.byteAt (a.toNat + j) = none) →
      perform (.read w a) s = .fault (.unwritten
        (if a.toNat < 0x02000 then .dbuf else if a.toNat < 0x03000 then .seq else if a.toNat < 0x03100 then .pbuf
          else if a.toNat < 0x20000 then .frame else .matrix)))) ∧
  (∀ (s : State) (i : Nat), i < 4096 →
    s.byteAt (0x01000 + i) = s.dbuf.read i ∧ s.byteAt (0x02000 + i) = s.seq.read i) ∧
  (∀ (s : State) (i : Nat), i < 256 →
    s.byteAt (0x03000 + i) = s.pbuf.read i ∧ s.byteAt (0x03100 + i) = some (expEntry i) ∧
    ∃ b, s.byteAt (0x03200 + i) = some b ∧ b.toNat = logEntry (BitVec.ofNat 8 i)) ∧
  (∀ (s : State) (r c : Nat), r < 177 → c < 177 →
    s.byteAt (0x10000 + (256 * r + c)) = (s.frame.read (256 * r + c)).map Cell.byte ∧
    s.byteAt (0x20000 + (256 * r + c)) = (s.matrix.read (256 * r + c)).map fun dark => if dark then 1 else 0) ∧
  (∀ (s : State) (r c : Nat), r < 177 → 177 ≤ c → c < 256 →
    s.byteAt (0x10000 + (256 * r + c)) = some 0 ∧ s.byteAt (0x20000 + (256 * r + c)) = some 0) ∧
  ∀ b : Bool, (Cell.byte ⟨.empty, b⟩).toNat = b.toNat ∧ (Cell.byte ⟨.data, b⟩).toNat = 2 + b.toNat ∧
    (Cell.byte ⟨.func, b⟩).toNat = 4 + b.toNat ∧ (Cell.byte ⟨.rsvd, b⟩).toNat = 6 + b.toNat

/-- R104, R107: a write to DBUF while BUSY = 0 stores its bytes, the low byte at the lowest address, and changes no
other byte and nothing else. -/
def Obligations.DbufWriteStoresItsBytes : Prop :=
  ∀ (s : State) (w : Width) (i : Nat) (v : Word), s.resetPin = false → s.busy = false → s.memoryWf = true →
    i % w.bytes = 0 → i < 4096 →
    ∃ t, perform (.write w (BitVec.ofNat 18 (0x01000 + i)) v) s = .next t ∧
      t = { s with dbuf := t.dbuf, response := .written } ∧
      (∀ j, j < w.bytes → t.byteAt (0x01000 + i + j) = some (v.extractLsb' (8 * j) 8)) ∧
      ∀ a, (a < 0x01000 + i ∨ 0x01000 + i + w.bytes ≤ a) → t.byteAt a = s.byteAt a

/-! Control commands that do not touch a buffer (spec/44, spec/41). -/

/-- R370: NOP completes and changes nothing else. -/
def Obligations.NopOnlyCompletes : Prop :=
  ∀ s : State, exec .nop s = .next { s with status := { s.status with done := true }, inflight := none }

/-- R250, R252, R253: FMTINFO writes BCH_OUT and nothing else, and the indicators and FMT have the values of R252's
table. -/
def Obligations.FmtinfoWritesTheFormatWord : Prop :=
  (∀ (lvl : Level) (m : Fin 8) (s : State), exec (.fmtinfo lvl m) s = .next { s with
    bchOut := (formatWord lvl m).setWidth 18
    status := { s.status with done := true }
    inflight := none }) ∧
  [Level.l, .m, .q, .h].map levelIndicator = [0b01, 0b00, 0b11, 0b10] ∧
  maskIds.map (formatWord .l) = [0x77C4, 0x72F3, 0x7DAA, 0x789D, 0x662F, 0x6318, 0x6C41, 0x6976] ∧
  maskIds.map (formatWord .m) = [0x5412, 0x5125, 0x5E7C, 0x5B4B, 0x45F9, 0x40CE, 0x4F97, 0x4AA0] ∧
  maskIds.map (formatWord .q) = [0x355F, 0x3068, 0x3F31, 0x3A06, 0x24B4, 0x2183, 0x2EDA, 0x2BED] ∧
  maskIds.map (formatWord .h) = [0x1689, 0x13BE, 0x1CE7, 0x19D0, 0x0762, 0x0255, 0x0D0C, 0x083B]

/-- R255, R256, R257: VERINFO writes BCH_OUT and nothing else for 7..40; VER(v) has the values of R256's table, with
the version in bits [17:12]. -/
def Obligations.VerinfoWritesTheVersionWord : Prop :=
  (∀ (v : Nat) (s : State), 7 ≤ v → v ≤ 40 → exec (.verinfo v) s = .next { s with
    bchOut := versionWord v
    status := { s.status with done := true }
    inflight := none }) ∧
  (∀ v, 7 ≤ v → v ≤ 40 → ((versionWord v).extractLsb' 12 6).toNat = v ∧
    polyMod (versionWord v).toNat 0x1F25 12 = 0) ∧
  (List.range 34).map (fun k => versionWord (k + 7)) =
    [0x07C94, 0x085BC, 0x09A99, 0x0A4D3, 0x0BBF6, 0x0C762, 0x0D847, 0x0E60D, 0x0F928, 0x10B78, 0x1145D, 0x12A17,
     0x13532, 0x149A6, 0x15683, 0x168C9, 0x177EC, 0x18EC4, 0x191E1, 0x1AFAB, 0x1B08E, 0x1CC1A, 0x1D33F, 0x1ED75,
     0x1F250, 0x209D5, 0x216F0, 0x228BA, 0x2379F, 0x24B0B, 0x2542E, 0x26A64, 0x27541, 0x28C69]

/-! Reed-Solomon (spec/40). -/

/-- R201, R202, R51: EXP lists the powers of α and its sentinel, LOG is its inverse with its sentinel. -/
def Obligations.ExpAndLogTablesAreInverse : Prop :=
  expEntry 0 = 0x01 ∧ expEntry 255 = 0x00 ∧ logEntry 0x00 = 255 ∧
  (∀ i, i < 254 → (expEntry (i + 1)).toNat =
    2 * (expEntry i).toNat ^^^ (if (expEntry i).getLsbD 7 then 0x11D else 0)) ∧
  (∀ i, i < 255 → logEntry (expEntry i) = i) ∧
  ∀ x : Byte, x ≠ 0x00 → logEntry x < 255 ∧ expEntry (logEntry x) = x

/-- R203: the product in GF(2^8) is EXP[(LOG a + LOG b) mod 255], it is the polynomial product reduced by 0x11D, and it
is commutative, associative, distributive with identity 0x01. -/
def Obligations.GaloisProductIsTheFieldProduct : Prop :=
  (∀ a b : Byte, (a = 0x00 ∨ b = 0x00 → gfMul a b = 0x00) ∧
    (a ≠ 0x00 → b ≠ 0x00 → gfMul a b = expEntry ((logEntry a + logEntry b) % 255)) ∧
    (gfMul a b).toNat = polyMod (polyProduct a.toNat b.toNat) 0x11D 8 ∧
    gfMul a b = gfMul b a ∧ gfMul 0x01 a = a) ∧
  (∀ a b c : Byte, gfMul (gfMul a b) c = gfMul a (gfMul b c) ∧
    gfMul a (b ^^^ c) = gfMul a b ^^^ gfMul a c) ∧
  gfMul 0x02 0x80 = 0x1D ∧ gfMul 0x03 0x07 = 0x09 ∧ gfMul 0x53 0xCA = 0x8F ∧ gfMul 0xFF 0xFF = 0xE2 ∧
  gfMul 0x8E 0x02 = 0x01

/-- R204, R205: the codeword polynomial, the data followed by its parity, vanishes at the roots α^0 … α^(n−1) of the
generator, and the parity has n codewords. -/
def Obligations.ParityMakesACodeword : Prop :=
  ∀ (d : List Byte) (n : Nat), (rsParity d n).length = n ∧
    ∀ i, i < n → evalPoly (d ++ rsParity d n) (alphaPow i) = 0x00

/-- R226: the textbook data gives the documented parity. -/
def Obligations.TextbookVectorIsReproduced : Prop :=
  rsParity [0x10, 0x20, 0x0C, 0x56, 0x61, 0x80, 0xEC, 0x11, 0xEC, 0x11, 0xEC, 0x11, 0xEC, 0x11, 0xEC, 0x11] 10 =
    [0xA5, 0x24, 0xD4, 0xC1, 0xED, 0x36, 0xC7, 0x87, 0x2C, 0x55]

/-- R208: RSENC K, NR writes PBUF[0..NR−1] with the parity of DBUF[s..s+K−1] and nothing else. -/
def Obligations.RsencWritesTheParity : Prop :=
  ∀ (s : State) (k nr : Nat) (d : List Byte), s.memoryWf = true →
    1 ≤ k → 1 ≤ nr → k + nr ≤ 255 → s.rsSrc.toNat + k ≤ 4096 →
    d.length = k → (∀ i, i < k → s.dbuf.read (s.rsSrc.toNat + i) = d[i]?) →
    ∃ t, exec (.rsenc k nr) s = .next t ∧
      t = { s with pbuf := t.pbuf, status := { s.status with done := true }, inflight := none } ∧
      (∀ j, j < nr → t.byteAt (0x03000 + j) = (rsParity d nr)[j]?) ∧
      ∀ a, (a < 0x03000 ∨ 0x03000 + nr ≤ a) → t.byteAt a = s.byteAt a

/-- R452 (log entry 4): RSENC, ECCBLD and ENCODE stop where they read a DBUF byte that nothing has written since
reset. -/
def Obligations.UnwrittenDataStopsTheEncoders : Prop :=
  ∀ s : State, s.memoryWf = true →
    (∀ k nr, 1 ≤ k → 1 ≤ nr → k + nr ≤ 255 → s.rsSrc.toNat + k ≤ 4096 →
      (∃ i, i < k ∧ s.dbuf.read (s.rsSrc.toNat + i) = none) →
      exec (.rsenc k nr) s = .fault (.unwritten .dbuf)) ∧
    (1 ≤ s.version → s.version ≤ 40 →
      (∃ i, i < dataCodewords s.version s.config.level ∧ s.dbuf.read i = none) →
      exec .eccbld s = .fault (.unwritten .dbuf) ∧
      (s.config.maskEn ≠ 0 → exec .encode s = .fault (.unwritten .dbuf)))

/-- R220, R221, R222: the tables of the width, of T, of REM and of the block partition (e, n1, k1, n2) row by row, and
the invariants of the block table, over all 40 versions and 4 levels. -/
def Obligations.BlockTableIsConsistent : Prop :=
  let versions := (List.range 40).map fun k => k + 1
  (∀ v, 1 ≤ v → v ≤ 40 → ∀ lvl : Level,
    (blockPlan v lvl).n1 * (blockPlan v lvl).k1 + (blockPlan v lvl).n2 * ((blockPlan v lvl).k1 + 1) =
      dataCodewords v lvl ∧
    (blockPlan v lvl).k1 = dataCodewords v lvl / ((blockPlan v lvl).n1 + (blockPlan v lvl).n2) ∧
    (blockPlan v lvl).n2 = dataCodewords v lvl % ((blockPlan v lvl).n1 + (blockPlan v lvl).n2) ∧
    dataCodewords v lvl + ((blockPlan v lvl).n1 + (blockPlan v lvl).n2) * (blockPlan v lvl).e = totalCodewords v ∧
    1 ≤ (blockPlan v lvl).n1 + (blockPlan v lvl).n2 ∧ (blockPlan v lvl).n1 + (blockPlan v lvl).n2 ≤ 81 ∧
    7 ≤ (blockPlan v lvl).e ∧ (blockPlan v lvl).e ≤ 30 ∧
    (blockPlan v lvl).k1 + 1 + (blockPlan v lvl).e ≤ 153 ∧
    9 ≤ dataCodewords v lvl ∧ dataCodewords v lvl ≤ 2956 ∧
    (v < 40 → dataCodewords v lvl < dataCodewords (v + 1) lvl)) ∧
  (∀ v, 1 ≤ v → v ≤ 40 → dataCodewords v .m < dataCodewords v .l ∧ dataCodewords v .q < dataCodewords v .m ∧
    dataCodewords v .h < dataCodewords v .q ∧ 26 ≤ totalCodewords v ∧ totalCodewords v ≤ 3706) ∧
  dataCodewords 1 .h = 9 ∧ dataCodewords 40 .l = 2956 ∧ totalCodewords 1 = 26 ∧ totalCodewords 40 = 3706 ∧
  versions.map symbolWidth = versions.map (fun v => 17 + 4 * v) ∧
  versions.map totalCodewords =
    [26, 44, 70, 100, 134, 172, 196, 242, 292, 346, 404, 466, 532, 581, 655, 733, 815, 901, 991, 1085] ++
    [1156, 1258, 1364, 1474, 1588, 1706, 1828, 1921, 2051, 2185, 2323, 2465, 2611, 2761, 2876, 3034, 3196,
     3362, 3532, 3706] ∧
  versions.map remainderBits =
    [0, 7, 7, 7, 7, 7, 0, 0, 0, 0, 0, 0, 0, 3, 3, 3, 3, 3, 3, 3] ++
    [4, 4, 4, 4, 4, 4, 4, 3, 3, 3, 3, 3, 3, 3, 0, 0, 0, 0, 0, 0] ∧
  versions.map (fun v => blockPlan v .l) =
    [⟨7, 1, 19, 0⟩, ⟨10, 1, 34, 0⟩, ⟨15, 1, 55, 0⟩, ⟨20, 1, 80, 0⟩, ⟨26, 1, 108, 0⟩, ⟨18, 2, 68, 0⟩,
     ⟨20, 2, 78, 0⟩, ⟨24, 2, 97, 0⟩, ⟨30, 2, 116, 0⟩, ⟨18, 2, 68, 2⟩] ++
    [⟨20, 4, 81, 0⟩, ⟨24, 2, 92, 2⟩, ⟨26, 4, 107, 0⟩, ⟨30, 3, 115, 1⟩, ⟨22, 5, 87, 1⟩, ⟨24, 5, 98, 1⟩,
     ⟨28, 1, 107, 5⟩, ⟨30, 5, 120, 1⟩, ⟨28, 3, 113, 4⟩, ⟨28, 3, 107, 5⟩] ++
    [⟨28, 4, 116, 4⟩, ⟨28, 2, 111, 7⟩, ⟨30, 4, 121, 5⟩, ⟨30, 6, 117, 4⟩, ⟨26, 8, 106, 4⟩, ⟨28, 10, 114, 2⟩,
     ⟨30, 8, 122, 4⟩, ⟨30, 3, 117, 10⟩, ⟨30, 7, 116, 7⟩, ⟨30, 5, 115, 10⟩] ++
    [⟨30, 13, 115, 3⟩, ⟨30, 17, 115, 0⟩, ⟨30, 17, 115, 1⟩, ⟨30, 13, 115, 6⟩, ⟨30, 12, 121, 7⟩,
     ⟨30, 6, 121, 14⟩, ⟨30, 17, 122, 4⟩, ⟨30, 4, 122, 18⟩, ⟨30, 20, 117, 4⟩, ⟨30, 19, 118, 6⟩] ∧
  versions.map (fun v => blockPlan v .m) =
    [⟨10, 1, 16, 0⟩, ⟨16, 1, 28, 0⟩, ⟨26, 1, 44, 0⟩, ⟨18, 2, 32, 0⟩, ⟨24, 2, 43, 0⟩, ⟨16, 4, 27, 0⟩,
     ⟨18, 4, 31, 0⟩, ⟨22, 2, 38, 2⟩, ⟨22, 3, 36, 2⟩, ⟨26, 4, 43, 1⟩] ++
    [⟨30, 1, 50, 4⟩, ⟨22, 6, 36, 2⟩, ⟨22, 8, 37, 1⟩, ⟨24, 4, 40, 5⟩, ⟨24, 5, 41, 5⟩, ⟨28, 7, 45, 3⟩,
     ⟨28, 10, 46, 1⟩, ⟨26, 9, 43, 4⟩, ⟨26, 3, 44, 11⟩, ⟨26, 3, 41, 13⟩] ++
    [⟨26, 17, 42, 0⟩, ⟨28, 17, 46, 0⟩, ⟨28, 4, 47, 14⟩, ⟨28, 6, 45, 14⟩, ⟨28, 8, 47, 13⟩, ⟨28, 19, 46, 4⟩,
     ⟨28, 22, 45, 3⟩, ⟨28, 3, 45, 23⟩, ⟨28, 21, 45, 7⟩, ⟨28, 19, 47, 10⟩] ++
    [⟨28, 2, 46, 29⟩, ⟨28, 10, 46, 23⟩, ⟨28, 14, 46, 21⟩, ⟨28, 14, 46, 23⟩, ⟨28, 12, 47, 26⟩, ⟨28, 6, 47, 34⟩,
     ⟨28, 29, 46, 14⟩, ⟨28, 13, 46, 32⟩, ⟨28, 40, 47, 7⟩, ⟨28, 18, 47, 31⟩] ∧
  versions.map (fun v => blockPlan v .q) =
    [⟨13, 1, 13, 0⟩, ⟨22, 1, 22, 0⟩, ⟨18, 2, 17, 0⟩, ⟨26, 2, 24, 0⟩, ⟨18, 2, 15, 2⟩, ⟨24, 4, 19, 0⟩,
     ⟨18, 2, 14, 4⟩, ⟨22, 4, 18, 2⟩, ⟨20, 4, 16, 4⟩, ⟨24, 6, 19, 2⟩] ++
    [⟨28, 4, 22, 4⟩, ⟨26, 4, 20, 6⟩, ⟨24, 8, 20, 4⟩, ⟨20, 11, 16, 5⟩, ⟨30, 5, 24, 7⟩, ⟨24, 15, 19, 2⟩,
     ⟨28, 1, 22, 15⟩, ⟨28, 17, 22, 1⟩, ⟨26, 17, 21, 4⟩, ⟨30, 15, 24, 5⟩] ++
    [⟨28, 17, 22, 6⟩, ⟨30, 7, 24, 16⟩, ⟨30, 11, 24, 14⟩, ⟨30, 11, 24, 16⟩, ⟨30, 7, 24, 22⟩, ⟨28, 28, 22, 6⟩,
     ⟨30, 8, 23, 26⟩, ⟨30, 4, 24, 31⟩, ⟨30, 1, 23, 37⟩, ⟨30, 15, 24, 25⟩] ++
    [⟨30, 42, 24, 1⟩, ⟨30, 10, 24, 35⟩, ⟨30, 29, 24, 19⟩, ⟨30, 44, 24, 7⟩, ⟨30, 39, 24, 14⟩, ⟨30, 46, 24, 10⟩,
     ⟨30, 49, 24, 10⟩, ⟨30, 48, 24, 14⟩, ⟨30, 43, 24, 22⟩, ⟨30, 34, 24, 34⟩] ∧
  versions.map (fun v => blockPlan v .h) =
    [⟨17, 1, 9, 0⟩, ⟨28, 1, 16, 0⟩, ⟨22, 2, 13, 0⟩, ⟨16, 4, 9, 0⟩, ⟨22, 2, 11, 2⟩, ⟨28, 4, 15, 0⟩,
     ⟨26, 4, 13, 1⟩, ⟨26, 4, 14, 2⟩, ⟨24, 4, 12, 4⟩, ⟨28, 6, 15, 2⟩] ++
    [⟨24, 3, 12, 8⟩, ⟨28, 7, 14, 4⟩, ⟨22, 12, 11, 4⟩, ⟨24, 11, 12, 5⟩, ⟨24, 11, 12, 7⟩, ⟨30, 3, 15, 13⟩,
     ⟨28, 2, 14, 17⟩, ⟨28, 2, 14, 19⟩, ⟨26, 9, 13, 16⟩, ⟨28, 15, 15, 10⟩] ++
    [⟨30, 19, 16, 6⟩, ⟨24, 34, 13, 0⟩, ⟨30, 16, 15, 14⟩, ⟨30, 30, 16, 2⟩, ⟨30, 22, 15, 13⟩, ⟨30, 33, 16, 4⟩,
     ⟨30, 12, 15, 28⟩, ⟨30, 11, 15, 31⟩, ⟨30, 19, 15, 26⟩, ⟨30, 23, 15, 25⟩] ++
    [⟨30, 23, 15, 28⟩, ⟨30, 19, 15, 35⟩, ⟨30, 11, 15, 46⟩, ⟨30, 59, 16, 1⟩, ⟨30, 22, 15, 41⟩, ⟨30, 2, 15, 64⟩,
     ⟨30, 24, 15, 46⟩, ⟨30, 42, 15, 32⟩, ⟨30, 10, 15, 67⟩, ⟨30, 20, 15, 61⟩]

/-- R223, R224, R225: ECCBLD cuts the data into blocks, encodes each, and writes data and parity interleaved to
SEQ[0..T−1]; it sets SEQV, JOB.SEQ_VER, JOB.SEQ_LVL and SEQ_LEN and changes nothing else. Block j holds the `len j`
codewords from index `start j` on. -/
def Obligations.EccbldWritesTheInterleavedBlocks : Prop :=
  ∀ (s : State) (d : List Byte), s.memoryWf = true → 1 ≤ s.version → s.version ≤ 40 →
    d.length = dataCodewords s.version s.config.level → (∀ i, i < d.length → s.dbuf.read i = d[i]?) →
    let b := blockPlan s.version s.config.level
    let start := fun j => j * b.k1 + (j - b.n1)
    let len := fun j => if j < b.n1 then b.k1 else b.k1 + 1
    ∃ t, exec .eccbld s = .next t ∧
      t = { s with
        seq := t.seq
        status := { s.status with seqv := true, done := true }
        job := { s.job with seqVer := s.config.version, seqLvl := s.config.level }
        seqLen := ⟨BitVec.ofNat 12 (totalCodewords s.version), BitVec.ofNat 12 d.length⟩
        inflight := none } ∧
      (∀ i j, i < b.k1 → j < b.n1 + b.n2 →
        t.byteAt (0x02000 + (i * (b.n1 + b.n2) + j)) = d[start j + i]?) ∧
      (∀ j, b.n1 ≤ j → j < b.n1 + b.n2 →
        t.byteAt (0x02000 + (b.k1 * (b.n1 + b.n2) + (j - b.n1))) = d[start j + b.k1]?) ∧
      (∀ i j, i < b.e → j < b.n1 + b.n2 →
        t.byteAt (0x02000 + (d.length + i * (b.n1 + b.n2) + j)) =
          (rsParity ((d.drop (start j)).take (len j)) b.e)[i]?) ∧
      ∀ a, (a < 0x02000 ∨ 0x02000 + totalCodewords s.version ≤ a) → t.byteAt a = s.byteAt a

/-! The frame (spec/42). -/

/-- R281: FRMINIT writes every FRAME cell, FRMV, PLCD, MATV, JOB.FRM_VER and PEN[0..7] and nothing else; outside the
w×w frame every cell is (EMPTY, 0). -/
def Obligations.FrminitWritesTheWholeFrame : Prop :=
  ∀ s : State, 1 ≤ s.version → s.version ≤ 40 →
    ∃ t, exec .frminit s = .next t ∧
      t = { s with
        frame := t.frame
        status := { s.status with frmv := true, plcd := false, matv := false, done := true }
        job := { s.job with frmVer := s.config.version }
        pen := Vector.replicate 8 0xFFFFFFFF
        inflight := none } ∧
      (∀ r c, r < 177 → c < 177 → ∃ cell, t.frame.read (256 * r + c) = some cell ∧ cell.kind ≠ .data ∧
        (cell.kind = .empty → cell.bit = false) ∧
        (symbolWidth s.version ≤ r ∨ symbolWidth s.version ≤ c → cell = ⟨.empty, false⟩)) ∧
      ∀ a, (a < 0x10000 ∨ 0x1B100 ≤ a) → t.byteAt a = s.byteAt a

/-- R271, R272: the three finders and their separators. -/
def Obligations.FindersAndSeparatorsAreDrawn : Prop :=
  ∀ v, 1 ≤ v → v ≤ 40 → let w := symbolWidth v
    (∀ p ∈ [(0, 0), (0, w - 7), (w - 7, 0)], ∀ i j, i ≤ 6 → j ≤ 6 →
      frminitDraws v (p.1 + i) (p.2 + j) ⟨.func, decide (max (absDiff i 3) (absDiff j 3) ≠ 2)⟩) ∧
    ∀ i, i ≤ 7 →
      frminitDraws v 7 i ⟨.func, false⟩ ∧ frminitDraws v i 7 ⟨.func, false⟩ ∧
      frminitDraws v 7 (w - 1 - i) ⟨.func, false⟩ ∧ frminitDraws v i (w - 8) ⟨.func, false⟩ ∧
      frminitDraws v (w - 8) i ⟨.func, false⟩ ∧ frminitDraws v (w - 1 - i) 7 ⟨.func, false⟩

/-- R274, R277: the timing patterns along row 6 and column 6, and the dark module at (w−8, 8). -/
def Obligations.TimingAndDarkModuleAreDrawn : Prop :=
  ∀ v, 1 ≤ v → v ≤ 40 → let w := symbolWidth v
    (∀ k, 8 ≤ k → k ≤ w - 9 → frminitDraws v 6 k ⟨.func, decide (k % 2 = 0)⟩ ∧
      frminitDraws v k 6 ⟨.func, decide (k % 2 = 0)⟩) ∧
    frminitDraws v (w - 8) 8 ⟨.func, true⟩

/-- R275, R276: the table of alignment centres, and an alignment pattern around every pair of centres but the three that
would overlap a finder. -/
def Obligations.AlignmentPatternsAreDrawn : Prop :=
  (List.range 40).map (fun k => alignCentres (k + 1)) =
    [[], [6, 18], [6, 22], [6, 26], [6, 30], [6, 34], [6, 22, 38], [6, 24, 42], [6, 26, 46], [6, 28, 50]] ++
    [[6, 30, 54], [6, 32, 58], [6, 34, 62], [6, 26, 46, 66], [6, 26, 48, 70], [6, 26, 50, 74], [6, 30, 54, 78],
     [6, 30, 56, 82], [6, 30, 58, 86], [6, 34, 62, 90]] ++
    [[6, 28, 50, 72, 94], [6, 26, 50, 74, 98], [6, 30, 54, 78, 102], [6, 28, 54, 80, 106],
     [6, 32, 58, 84, 110], [6, 30, 58, 86, 114], [6, 34, 62, 90, 118], [6, 26, 50, 74, 98, 122],
     [6, 30, 54, 78, 102, 126], [6, 26, 52, 78, 104, 130]] ++
    [[6, 30, 56, 82, 108, 134], [6, 34, 60, 86, 112, 138], [6, 30, 58, 86, 114, 142],
     [6, 34, 62, 90, 118, 146], [6, 30, 54, 78, 102, 126, 150], [6, 24, 50, 76, 102, 128, 154],
     [6, 28, 54, 80, 106, 132, 158], [6, 32, 58, 84, 110, 136, 162], [6, 26, 54, 82, 110, 138, 166],
     [6, 30, 58, 86, 114, 142, 170]] ∧
  ∀ v, 1 ≤ v → v ≤ 40 → let w := symbolWidth v
    ∀ p ∈ alignCentres v, ∀ q ∈ alignCentres v,
      (p, q) ≠ (6, 6) → (p, q) ≠ (6, w - 7) → (p, q) ≠ (w - 7, 6) →
      ∀ i j, i ≤ 4 → j ≤ 4 →
        frminitDraws v (p - 2 + i) (q - 2 + j) ⟨.func, decide (max (absDiff i 2) (absDiff j 2) ≠ 1)⟩

/-- R273, R278, R287: where the 15 bits of the two format-information copies lie, bit 0 first, and that those cells are
RSVD 0; from version 7 on the two version-information blocks hold the bits of VER(v) as RSVD cells, and below version 7
those cells stay EMPTY. -/
def Obligations.FormatAndVersionAreasAreReserved : Prop :=
  (List.range 15).map fmtPos1 =
    [(0, 8), (1, 8), (2, 8), (3, 8), (4, 8), (5, 8), (7, 8), (8, 8), (8, 7), (8, 5), (8, 4), (8, 3), (8, 2), (8, 1),
     (8, 0)] ∧
  ∀ v, 1 ≤ v → v ≤ 40 → let w := symbolWidth v
    (List.range 15).map (fmtPos2 w) =
      [(8, w - 1), (8, w - 2), (8, w - 3), (8, w - 4), (8, w - 5), (8, w - 6), (8, w - 7), (8, w - 8), (w - 7, 8),
       (w - 6, 8), (w - 5, 8), (w - 4, 8), (w - 3, 8), (w - 2, 8), (w - 1, 8)] ∧
    (∀ k, k ≤ 14 → frminitDraws v (fmtPos1 k).1 (fmtPos1 k).2 ⟨.rsvd, false⟩ ∧
      frminitDraws v (fmtPos2 w k).1 (fmtPos2 w k).2 ⟨.rsvd, false⟩) ∧
    (7 ≤ v → ∀ k, k ≤ 17 →
      frminitDraws v (k / 3) (w - 11 + k % 3) ⟨.rsvd, (versionWord v).getLsbD k⟩ ∧
      frminitDraws v (w - 11 + k % 3) (k / 3) ⟨.rsvd, (versionWord v).getLsbD k⟩) ∧
    (v < 7 → ∀ k, k ≤ 17 →
      frminitDraws v (k / 3) (w - 11 + k % 3) ⟨.empty, false⟩ ∧
      frminitDraws v (w - 11 + k % 3) (k / 3) ⟨.empty, false⟩)

/-- R282: after FRMINIT of version v the w×w frame has 8·T(v) + REM(v) EMPTY cells, 30 RSVD cells for v ≤ 6, 66 for
v ≥ 7, and all its other cells are FUNC. -/
def Obligations.EmptyCellsMatchTheBits : Prop :=
  ∀ s t : State, 1 ≤ s.version → s.version ≤ 40 → exec .frminit s = .next t →
    let cells := (gridRows (symbolWidth s.version) fun r c => (t.frame.read (256 * r + c)).map Cell.kind).flatten
    cells.count (some .empty) = 8 * totalCodewords s.version + remainderBits s.version ∧
    cells.count (some .rsvd) = (if s.version ≤ 6 then 30 else 66) ∧
    cells.count (some .func) + cells.count (some .rsvd) + cells.count (some .empty) =
      symbolWidth s.version * symbolWidth s.version

/-- R283: the traversal visits exactly the EMPTY cells of the w×w frame outside column 6, each once, in zig-zag
order. -/
def Obligations.TraversalIsTheZigZag : Prop :=
  ∀ (v : Nat) (rows : List (List Cell)), 1 ≤ v → v ≤ 40 →
    (order (symbolWidth v) rows).Pairwise visitedBefore ∧
    ∀ y x, (y, x) ∈ order (symbolWidth v) rows ↔
      y < symbolWidth v ∧ x < symbolWidth v ∧ x ≠ 6 ∧ (cellAt rows y x).kind = .empty

/-- R284: the bits PLACE writes are the codewords' bits, most significant first, then REM(v) zeros. -/
def Obligations.PlacedBitsAreMsbFirst : Prop :=
  ∀ (v : Nat) (q : List Byte), (placedBits v q).length = 8 * q.length + remainderBits v ∧
    (∀ j k (b : Byte), k < 8 → q[j]? = some b → (placedBits v q)[8 * j + k]? = some (b.getLsbD (7 - k))) ∧
    ∀ n, n < remainderBits v → (placedBits v q)[8 * q.length + n]? = some false

/-- R285: with its flags and versions in order and as many EMPTY cells as bits, PLACE writes the n-th bit as a DATA cell
at the n-th cell of the traversal, sets PLCD and JOB.PLC_LVL, and changes nothing else. -/
def Obligations.PlaceWritesTheBitsInOrder : Prop :=
  ∀ (s : State) (F : Nat → Nat → Cell) (q : List Byte), s.memoryWf = true →
    s.status.seqv = true → s.status.frmv = true → s.status.plcd = false → s.job.seqVer = s.job.frmVer →
    1 ≤ s.frameVersion → s.frameVersion ≤ 40 → s.frameIs F →
    q.length = totalCodewords s.frameVersion → (∀ i, i < q.length → s.seq.read i = q[i]?) →
    let cells := order s.frameWidth (gridRows s.frameWidth F)
    cells.length = 8 * totalCodewords s.frameVersion + remainderBits s.frameVersion →
    ∃ t, exec .place s = .next t ∧
      t = { s with
        frame := t.frame
        status := { s.status with plcd := true, done := true }
        job := { s.job with plcLvl := s.job.seqLvl }
        inflight := none } ∧
      (∀ (n y x : Nat), cells[n]? = some (y, x) →
        t.frame.read (256 * y + x) = (placedBits s.frameVersion q)[n]?.map (fun b => ⟨.data, b⟩)) ∧
      (∀ k, (∀ p ∈ cells, k ≠ 256 * p.1 + p.2) → t.frame.read k = s.frame.read k) ∧
      ∀ a, (∀ p ∈ cells, a ≠ 0x10000 + (256 * p.1 + p.2)) → t.byteAt a = s.byteAt a

/-- R280: FRMINIT of version 1 leaves the frame as printed: `#` FUNC 1, `.` FUNC 0, `f` RSVD 0, `-` EMPTY. -/
def Obligations.VersionOneFrameIsAsPrinted : Prop :=
  let printed : List String :=
    ["#######.f----.#######", "#.....#.f----.#.....#", "#.###.#.f----.#.###.#", "#.###.#.f----.#.###.#",
     "#.###.#.f----.#.###.#", "#.....#.f----.#.....#", "#######.#.#.#.#######", "........f----........",
     "ffffff#ff----ffffffff", "------.--------------", "------#--------------", "------.--------------",
     "------#--------------", "........#------------", "#######.f------------", "#.....#.f------------",
     "#.###.#.f------------", "#.###.#.f------------", "#.###.#.f------------", "#.....#.f------------",
     "#######.f------------"]
  ∀ r c, r < 21 → c < 21 → frminitDraws 1 r c (printedCell ((printed.getD r "").toList.getD c '?'))

/-! Masks and penalties (spec/43). -/

/-- R321: each mask's condition at every row i and column j, and the eight masks over rows and columns 0..5 as the table
prints them (1 inverts). -/
def Obligations.MasksInvertThePrintedCells : Prop :=
  (∀ i j : Nat,
    (maskFn 0 i j = true ↔ (i + j) % 2 = 0) ∧
    (maskFn 1 i j = true ↔ i % 2 = 0) ∧
    (maskFn 2 i j = true ↔ j % 3 = 0) ∧
    (maskFn 3 i j = true ↔ (i + j) % 3 = 0) ∧
    (maskFn 4 i j = true ↔ (i / 2 + j / 3) % 2 = 0) ∧
    (maskFn 5 i j = true ↔ (i * j) % 2 + (i * j) % 3 = 0) ∧
    (maskFn 6 i j = true ↔ ((i * j) % 2 + (i * j) % 3) % 2 = 0) ∧
    (maskFn 7 i j = true ↔ ((i + j) % 2 + (i * j) % 3) % 2 = 0)) ∧
  (maskIds.map fun m => (List.range 6).map fun i => String.ofList ((List.range 6).map fun j =>
    if maskFn m i j then '1' else '0')) =
  [["101010", "010101", "101010", "010101", "101010", "010101"],
   ["111111", "000000", "111111", "000000", "111111", "000000"],
   ["100100", "100100", "100100", "100100", "100100", "100100"],
   ["100100", "001001", "010010", "100100", "001001", "010010"],
   ["111000", "111000", "000111", "000111", "111000", "111000"],
   ["111111", "100000", "100100", "101010", "100100", "100000"],
   ["111111", "111000", "110110", "101010", "101101", "100011"],
   ["101010", "000111", "100011", "010101", "111000", "011100"]]

/-- R324: RUNS(L) cuts the line into its maximal blocks of equal bits. -/
def Obligations.RunsAreTheMaximalBlocks : Prop :=
  ∀ L : List Bool, (runs L).flatMap (fun t => List.replicate t.2 t.1) = L ∧
    (∀ t ∈ runs L, 1 ≤ t.2) ∧ ((runs L).map fun t => t.2).sum = L.length ∧
    ∀ n a b, (runs L)[n]? = some a → (runs L)[n + 1]? = some b → a.1 ≠ b.1

/-- R323, R325, R326, R328 and the lines of R323–R330: a w×w matrix's lines are its rows and then its columns; N1 adds
3 + (len − 5) for every run of at least 5 of a line; N2 counts the one-colour 2×2 windows; N4 is the distance of the
truncated percentage of dark cells from 50, in steps of 5. -/
def Obligations.WindowsAndLinesOfAMatrix : Prop :=
  ∀ (w : Nat) (S : Nat → Nat → Bool),
    linesOf w (gridRows w S) = gridRows w S ++ gridRows w (fun c r => S r c) ∧
    penaltyN1 w (gridRows w S) =
      ((gridRows w S ++ gridRows w fun c r => S r c).flatMap fun L =>
        ((runs L).filter fun t => decide (5 ≤ t.2)).map fun t => 3 + (t.2 - 5)).sum ∧
    penaltyN2 (gridRows w S) = 3 * (gridRows (w - 1) fun r c =>
      decide (S r c = S r (c + 1) ∧ S r c = S (r + 1) c ∧ S r c = S (r + 1) (c + 1))).flatten.count true ∧
    penaltyN4 w (gridRows w S) =
      10 * ((((100 * (gridRows w S).flatten.count true / (w * w) : Nat) : Int) - 50).natAbs / 5)

/-- R327: N3 is 40 for every run index of a row or a column at which R327's conditions hold. -/
def Obligations.FinderLikePatternsAreCounted : Prop :=
  ∀ (w : Nat) (S : Nat → Nat → Bool), penaltyN3 w (gridRows w S) =
    40 * ((gridRows w S ++ gridRows w fun c r => S r c).map fun L =>
      (List.range (runs L).length).countP fun t => patternAt (runs L) t).sum

/-- R333: the bounds of the four terms and of the penalty, for every w×w matrix with w ≤ 177. -/
def Obligations.PenaltyIsBounded : Prop :=
  ∀ (w : Nat) (S : Nat → Nat → Bool), w ≤ 177 →
    penaltyN1 w (gridRows w S) ≤ 61950 ∧ penaltyN2 (gridRows w S) ≤ 92928 ∧
    penaltyN3 w (gridRows w S) ≤ 1260240 ∧ penaltyN4 w (gridRows w S) ≤ 100 ∧
    penalty w (gridRows w S) < 1415219 ∧ BitVec.ofNat 32 (penalty w (gridRows w S)) ≠ 0xFFFFFFFF

/-- R320, R322, R331: on a placed frame MAPPLY m writes MATRIX with SYM(m), 0 outside it, sets MATV and MAT_MASK, and
changes nothing else. -/
def Obligations.MapplyShowsTheMaskedSymbol : Prop :=
  ∀ (s : State) (m : Fin 8) (F : Nat → Nat → Cell), s.memoryWf = true → s.status.plcd = true →
    1 ≤ s.frameVersion → s.frameVersion ≤ 40 → s.frameIs F →
    ∃ t S, exec (.mapply m) s = .next t ∧
      t = { s with
        matrix := t.matrix
        status := { s.status with matv := true, done := true }
        matMask := m
        inflight := none } ∧
      isSymbol s.frameWidth s.job.plcLvl m F S ∧
      (∀ r c, r < 177 → c < 177 → t.byteAt (0x20000 + (256 * r + c)) =
        some (if r < s.frameWidth ∧ c < s.frameWidth ∧ S r c = true then 1 else 0)) ∧
      ∀ a, (a < 0x20000 ∨ 0x2B100 ≤ a) → t.byteAt a = s.byteAt a

/-- R329, R332: on a placed frame MEVAL m writes PEN[m] with the penalty of SYM(m) and changes nothing else. -/
def Obligations.MevalScoresTheMaskedSymbol : Prop :=
  ∀ (s : State) (m : Fin 8) (F : Nat → Nat → Cell) (S : Nat → Nat → Bool), s.memoryWf = true →
    s.status.plcd = true → 1 ≤ s.frameVersion → s.frameVersion ≤ 40 → s.frameIs F →
    isSymbol s.frameWidth s.job.plcLvl m F S →
    ∃ t, exec (.meval m) s = .next t ∧
      t = { s with pen := t.pen, status := { s.status with done := true }, inflight := none } ∧
      t.pen[m].toNat = penaltyN1 s.frameWidth (gridRows s.frameWidth S) + penaltyN2 (gridRows s.frameWidth S) +
        penaltyN3 s.frameWidth (gridRows s.frameWidth S) + penaltyN4 s.frameWidth (gridRows s.frameWidth S) ∧
      (∀ m' : Fin 8, m' ≠ m → t.pen[m'] = s.pen[m']) ∧
      ∀ a, t.byteAt a = s.byteAt a

/-- R334, R335: on a placed frame with a candidate, MSEL writes PEN with the candidates' penalties, shows the symbol of
the candidate with the lowest penalty (the lowest mask id among equals), and changes nothing else. -/
def Obligations.MselShowsTheFirstLowestPenalty : Prop :=
  ∀ (s : State) (F : Nat → Nat → Cell) (S : Fin 8 → Nat → Nat → Bool), s.memoryWf = true →
    s.config.maskEn ≠ 0 → s.status.plcd = true → 1 ≤ s.frameVersion → s.frameVersion ≤ 40 → s.frameIs F →
    (∀ m, isSymbol s.frameWidth s.job.plcLvl m F (S m)) →
    let P := fun m => penalty s.frameWidth (gridRows s.frameWidth (S m))
    ∃ t best, exec .msel s = .next t ∧
      t = { s with
        pen := t.pen
        matrix := t.matrix
        status := { s.status with matv := true, done := true }
        matMask := best
        inflight := none } ∧
      s.config.maskEn.getLsbD best.val = true ∧
      (∀ m : Fin 8, s.config.maskEn.getLsbD m.val = true → P best ≤ P m ∧ (m < best → P best < P m)) ∧
      (∀ m : Fin 8, t.pen[m] =
        if s.config.maskEn.getLsbD m.val = true then BitVec.ofNat 32 (P m) else 0xFFFFFFFF) ∧
      (∀ r c, r < 177 → c < 177 → t.byteAt (0x20000 + (256 * r + c)) =
        some (if r < s.frameWidth ∧ c < s.frameWidth ∧ S best r c = true then 1 else 0)) ∧
      ∀ a, (a < 0x20000 ∨ 0x2B100 ≤ a) → t.byteAt a = s.byteAt a

/-! The whole pipeline (spec/44 R372). -/

/-- R372: ENCODE is ECCBLD, FRMINIT, PLACE and MSEL one after another: the same final state, or the same stop. -/
def Obligations.EncodeIsTheFourCommands : Prop :=
  ∀ s : State, 1 ≤ s.version → s.version ≤ 40 → s.config.maskEn ≠ 0 →
    exec .encode s = andThen (andThen (andThen (exec .eccbld s) (exec .frminit)) (exec .place)) (exec .msel)

/-- R372: with a legal version, a candidate mask and the data written, ENCODE completes; it sets the four valid flags,
JOB, SEQ_LEN and a candidate mask id, and changes SEQ[0..T−1], FRAME, MATRIX and PEN but nothing else. -/
def Obligations.EncodeCompletesTheWholeSymbol : Prop :=
  ∀ s : State, s.memoryWf = true → 1 ≤ s.version → s.version ≤ 40 → s.config.maskEn ≠ 0 →
    (∀ i, i < dataCodewords s.version s.config.level → s.dbuf.read i ≠ none) →
    ∃ t, exec .encode s = .next t ∧
      t = { s with
        seq := t.seq, frame := t.frame, matrix := t.matrix, pen := t.pen
        status := { s.status with seqv := true, frmv := true, plcd := true, matv := true, done := true }
        job := ⟨s.config.version, s.config.level, s.config.version, s.config.level⟩
        seqLen := ⟨BitVec.ofNat 12 (totalCodewords s.version),
          BitVec.ofNat 12 (dataCodewords s.version s.config.level)⟩
        matMask := t.matMask
        inflight := none } ∧
      s.config.maskEn.getLsbD t.matMask.val = true ∧
      ∀ a, ¬ (0x02000 ≤ a ∧ a < 0x02000 + totalCodewords s.version) → ¬ (0x10000 ≤ a ∧ a < 0x1B100) →
        ¬ (0x20000 ≤ a ∧ a < 0x2B100) → t.byteAt a = s.byteAt a

/-! Registers (spec/10). -/

/-- R33–R43, R106: what a read of each register answers while BUSY = 0: its stored fields at their bits, every other bit
0. -/
def Obligations.IdleRegisterReadsAnswerTheirFields : Prop :=
  [Level.l, .m, .q, .h].map Level.code = [0, 1, 2, 3] ∧
  [ErrCode.none, .illegal, .badver, .badrs, .sequence, .badmask, .internal].map ErrCode.code = [0, 1, 2, 3, 4, 5, 6] ∧
  ∀ s : State, s.resetPin = false → s.busy = false →
    let answers := fun (a : Addr) (v : Word) => perform (.read .word a) s = .next { s with response := .data v }
    answers 0x00000 0x51520001 ∧
    (∃ v, answers 0x00004 v ∧ v.extractLsb' 0 6 = s.config.version ∧ v.extractLsb' 8 2 = s.config.level.code ∧
      v.extractLsb' 16 8 = s.config.maskEn ∧ v.getLsbD 24 = s.config.ie ∧ v &&& 0xFE00FCC0 = 0) ∧
    answers 0x00008 s.lastCmd ∧
    (∃ v, answers 0x0000C v ∧ v.getLsbD 0 = false ∧ v.getLsbD 1 = s.status.done ∧ v.getLsbD 2 = s.status.err ∧
      v.getLsbD 3 = s.status.ovr ∧ v.getLsbD 4 = s.status.seqv ∧ v.getLsbD 5 = s.status.frmv ∧
      v.getLsbD 6 = s.status.plcd ∧ v.getLsbD 7 = s.status.matv ∧ v >>> 8 = 0) ∧
    (∃ v, answers 0x00010 v ∧ v.extractLsb' 0 4 = s.errinfo.code.code ∧ v.extractLsb' 8 8 = s.errinfo.opc ∧
      v &&& 0xFFFF00F0 = 0) ∧
    (∃ v, answers 0x00014 v ∧ v.extractLsb' 0 12 = s.rsSrc ∧ v >>> 12 = 0) ∧
    (∃ v, answers 0x00018 v ∧ v.toNat = s.matMask.val) ∧
    (∃ v, answers 0x0001C v ∧ v.extractLsb' 0 6 = s.job.seqVer ∧ v.extractLsb' 8 2 = s.job.seqLvl.code ∧
      v.extractLsb' 16 6 = s.job.frmVer ∧ v.extractLsb' 24 2 = s.job.plcLvl.code ∧ v &&& 0xFCC0FCC0 = 0) ∧
    (∃ v, answers 0x00020 v ∧ v.extractLsb' 0 18 = s.bchOut ∧ v >>> 18 = 0) ∧
    (∃ v, answers 0x00024 v ∧ v.extractLsb' 0 12 = s.seqLen.t ∧ v.extractLsb' 16 12 = s.seqLen.d ∧
      v &&& 0xF000F000 = 0) ∧
    ∀ m : Fin 8, answers (BitVec.ofNat 18 (0x00040 + 4 * m.val)) s.pen[m]
end

