-- ==== Sys2Proof/Laws/Memory.lean ====
section
/-! SUPPORT. What the buffer operations do: what an entry reads as after each write, that every write keeps the
canonical form, and what a run of entries reads as. -/

namespace Sys2Proof.Machine.Memory

variable {α : Type}

/-- The canonical form as a pairwise order of the indices. -/
theorem wf_iff_pairwise (m : Memory α) : wf m = true ↔ m.Pairwise (fun x y => x.1 < y.1) := by
  induction m with
  | nil => simp [wf]
  | cons e m ih =>
    obtain ⟨a, v⟩ := e
    cases m with
    | nil => simp [wf]
    | cons e' m' =>
      obtain ⟨b, w⟩ := e'
      simp only [wf, Bool.and_eq_true, decide_eq_true_eq, ih, List.pairwise_cons]
      constructor
      · rintro ⟨hab, hb, hm⟩
        refine ⟨?_, hb, hm⟩
        intro x hx
        rcases List.mem_cons.1 hx with rfl | hx
        · exact hab
        · exact lt_trans hab (hb x hx)
      · rintro ⟨ha, hb, hm⟩
        exact ⟨ha (b, w) (by simp), hb, hm⟩

theorem wf_cons (a : Nat) (v : α) (m : Memory α) :
    wf ((a, v) :: m) = true ↔ (∀ e ∈ m, a < e.1) ∧ wf m = true := by
  simp [wf_iff_pairwise, List.pairwise_cons]

@[simp] theorem read_nil (a : Nat) : read ([] : Memory α) a = none := rfl

theorem read_cons (k : Nat) (v : α) (m : Memory α) (a : Nat) :
    read ((k, v) :: m) a = if k = a then some v else read m a := rfl

theorem read_eq_none_of_forall_ne (m : Memory α) (a : Nat) (h : ∀ e ∈ m, e.1 ≠ a) : read m a = none := by
  induction m with
  | nil => rfl
  | cons e m ih =>
    obtain ⟨k, v⟩ := e
    rw [read_cons, if_neg (h (k, v) (by simp)), ih (fun e he => h e (by simp [he]))]

theorem mem_of_read_eq_some (m : Memory α) (a : Nat) (v : α) (h : read m a = some v) : (a, v) ∈ m := by
  induction m with
  | nil => simp at h
  | cons e m ih =>
    obtain ⟨k, w⟩ := e
    rw [read_cons] at h
    split at h
    · simp_all
    · exact List.mem_cons_of_mem _ (ih h)

theorem read_eq_some_of_mem (m : Memory α) (hm : wf m = true) (a : Nat) (v : α) (h : (a, v) ∈ m) :
    read m a = some v := by
  induction m with
  | nil => simp at h
  | cons e m ih =>
    obtain ⟨k, w⟩ := e
    rw [wf_cons] at hm
    rcases List.mem_cons.1 h with h | h
    · cases h
      simp [read_cons]
    · have hlt : k < a := hm.1 (a, v) h
      rw [read_cons, if_neg (by omega), ih hm.2 h]

/-- Two canonical buffers that read the same everywhere are the same data. -/
theorem eq_of_read_eq (m n : Memory α) (hm : wf m = true) (hn : wf n = true) (h : ∀ a, read m a = read n a) :
    m = n := by
  induction m generalizing n with
  | nil =>
    cases n with
    | nil => rfl
    | cons e n =>
      obtain ⟨k, v⟩ := e
      have := h k
      simp [read_cons] at this
  | cons e m ih =>
    obtain ⟨k, v⟩ := e
    rw [wf_cons] at hm
    cases n with
    | nil =>
      have := h k
      simp [read_cons] at this
    | cons e' n =>
      obtain ⟨k', v'⟩ := e'
      rw [wf_cons] at hn
      have hk : k = k' := by
        rcases lt_trichotomy k k' with hlt | heq | hgt
        · have h1 := h k
          rw [read_cons, if_pos rfl, read_cons, if_neg (by omega),
            read_eq_none_of_forall_ne n k (fun e he => by have := hn.1 e he; omega)] at h1
          simp at h1
        · exact heq
        · have h1 := h k'
          rw [read_cons, if_neg (by omega), read_cons, if_pos rfl,
            read_eq_none_of_forall_ne m k' (fun e he => by have := hm.1 e he; omega)] at h1
          simp at h1
      subst hk
      have hv : v = v' := by
        have h1 := h k
        simpa [read_cons] using h1
      subst hv
      congr 1
      refine ih n hm.2 hn.2 (fun a => ?_)
      by_cases ha : k = a
      · subst ha
        rw [read_eq_none_of_forall_ne m k (fun e he => by have := hm.1 e he; omega),
          read_eq_none_of_forall_ne n k (fun e he => by have := hn.1 e he; omega)]
      · have h1 := h a
        rwa [read_cons, if_neg ha, read_cons, if_neg ha] at h1

/-- What `overlay` does, said once: it keeps the canonical form, its entries come from the two buffers, and an index
reads as in `new` where `new` lists it, else as in `old`. -/
theorem overlay_spec (new old : Memory α) (hn : wf new = true) (ho : wf old = true) :
    wf (overlay new old) = true ∧ (∀ e ∈ overlay new old, e ∈ new ∨ e ∈ old) ∧
      ∀ a, read (overlay new old) a = (read new a).or (read old a) := by
  induction new generalizing old with
  | nil => exact ⟨ho, fun e he => .inr he, fun a => by simp [overlay]⟩
  | cons e new ih =>
    obtain ⟨k, v⟩ := e
    rw [wf_cons] at hn
    simp only [overlay]
    induction old with
    | nil =>
      obtain ⟨hw, hmem, hread⟩ := ih [] hn.2 rfl
      simp only [putBefore]
      refine ⟨(wf_cons ..).2 ⟨fun e he => ?_, hw⟩, ?_, fun a => ?_⟩
      · rcases hmem e he with h | h
        · exact hn.1 e h
        · simp at h
      · intro e he
        rcases List.mem_cons.1 he with h | h
        · exact .inl (by simp [h])
        · rcases hmem e h with h | h
          · exact .inl (by simp [h])
          · simp at h
      · rw [read_cons, read_cons, hread]
        split <;> simp
    | cons e' old ih' =>
      obtain ⟨k', v'⟩ := e'
      have ho' := (wf_cons ..).1 ho
      simp only [putBefore]
      split
      · rename_i hlt
        obtain ⟨hw, hmem, hread⟩ := ih' ho'.2
        refine ⟨(wf_cons ..).2 ⟨fun e he => ?_, hw⟩, ?_, fun a => ?_⟩
        · rcases hmem e he with h | h
          · rcases List.mem_cons.1 h with rfl | h
            · exact hlt
            · exact lt_trans hlt (hn.1 e h)
          · exact ho'.1 e h
        · intro e he
          rcases List.mem_cons.1 he with h | h
          · exact .inr (by simp [h])
          · rcases hmem e h with h | h
            · exact .inl h
            · exact .inr (by simp [h])
        · rw [read_cons, hread]
          by_cases ha : k' = a
          · subst ha
            have : read ((k, v) :: new) k' = none := by
              apply read_eq_none_of_forall_ne
              intro e he
              rcases List.mem_cons.1 he with rfl | h
              · simp; omega
              · have := hn.1 e h; omega
            simp [this, read_cons]
          · simp [read_cons, ha]
      · split
        · rename_i hge heq
          subst heq
          obtain ⟨hw, hmem, hread⟩ := ih old hn.2 ho'.2
          refine ⟨(wf_cons ..).2 ⟨fun e he => ?_, hw⟩, ?_, fun a => ?_⟩
          · rcases hmem e he with h | h
            · exact hn.1 e h
            · exact ho'.1 e h
          · intro e he
            rcases List.mem_cons.1 he with h | h
            · exact .inl (by simp [h])
            · rcases hmem e h with h | h
              · exact .inl (by simp [h])
              · exact .inr (by simp [h])
          · rw [read_cons, read_cons, read_cons, hread]
            split <;> simp
        · rename_i hge hne
          obtain ⟨hw, hmem, hread⟩ := ih ((k', v') :: old) hn.2 ho
          refine ⟨(wf_cons ..).2 ⟨fun e he => ?_, hw⟩, ?_, fun a => ?_⟩
          · rcases hmem e he with h | h
            · exact hn.1 e h
            · rcases List.mem_cons.1 h with rfl | h
              · simp; omega
              · have := ho'.1 e h; omega
          · intro e he
            rcases List.mem_cons.1 he with h | h
            · exact .inl (by simp [h])
            · rcases hmem e h with h | h
              · exact .inl (by simp [h])
              · exact .inr h
          · rw [read_cons, hread, read_cons k]
            split <;> simp

theorem wf_overlay (new old : Memory α) (hn : wf new = true) (ho : wf old = true) : wf (overlay new old) = true :=
  (overlay_spec new old hn ho).1

theorem read_overlay (new old : Memory α) (hn : wf new = true) (ho : wf old = true) (a : Nat) :
    read (overlay new old) a = (read new a).or (read old a) :=
  (overlay_spec new old hn ho).2.2 a

theorem mem_overlay (new old : Memory α) (hn : wf new = true) (ho : wf old = true) (e : Nat × α)
    (he : e ∈ overlay new old) : e ∈ new ∨ e ∈ old :=
  (overlay_spec new old hn ho).2.1 e he

theorem ofRun_ge (vs : List α) (a : Nat) (e : Nat × α) (he : e ∈ ofRun a vs) : a ≤ e.1 ∧ e.1 < a + vs.length := by
  induction vs generalizing a with
  | nil => simp [ofRun] at he
  | cons v vs ih =>
    rcases List.mem_cons.1 he with rfl | h
    · simp
    · have := ih (a + 1) h
      simp only [List.length_cons]
      omega

theorem wf_ofRun (vs : List α) (a : Nat) : wf (ofRun a vs) = true := by
  induction vs generalizing a with
  | nil => rfl
  | cons v vs ih =>
    rw [ofRun, wf_cons]
    exact ⟨fun e he => by have := ofRun_ge vs (a + 1) e he; omega, ih (a + 1)⟩

theorem read_ofRun (vs : List α) (b a : Nat) : read (ofRun b vs) a = if b ≤ a then vs[a - b]? else none := by
  induction vs generalizing b with
  | nil => simp [ofRun]
  | cons v vs ih =>
    rw [ofRun, read_cons, ih (b + 1)]
    rcases Nat.lt_trichotomy b a with h | h | h
    · rw [if_neg (by omega), if_pos (by omega), if_pos (by omega), show a - b = (a - (b + 1)) + 1 by omega,
        List.getElem?_cons_succ]
    · subst h
      simp
    · rw [if_neg (by omega), if_neg (by omega), if_neg (by omega)]

theorem wf_write (m : Memory α) (hm : wf m = true) (a : Nat) (v : α) : wf (m.write a v) = true :=
  wf_overlay _ _ rfl hm

theorem read_write (m : Memory α) (hm : wf m = true) (a : Nat) (v : α) (b : Nat) :
    read (m.write a v) b = if a = b then some v else read m b := by
  rw [write, read_overlay _ _ rfl hm, read_cons]
  split <;> simp

theorem wf_writeRun (m : Memory α) (hm : wf m = true) (a : Nat) (vs : List α) : wf (m.writeRun a vs) = true :=
  wf_overlay _ _ (wf_ofRun vs a) hm

/-- A run that is written reads back, and every other index reads as before. -/
theorem read_writeRun (m : Memory α) (hm : wf m = true) (a : Nat) (vs : List α) (b : Nat) :
    read (m.writeRun a vs) b = if a ≤ b ∧ b < a + vs.length then vs[b - a]? else read m b := by
  rw [writeRun, read_overlay _ _ (wf_ofRun vs a) hm, read_ofRun]
  by_cases h1 : a ≤ b
  · by_cases h2 : b < a + vs.length
    · rw [if_pos h1, if_pos ⟨h1, h2⟩, List.getElem?_eq_getElem (by omega), Option.some_or]
    · rw [if_pos h1, if_neg (by omega), List.getElem?_eq_none (by omega), Option.none_or]
  · rw [if_neg h1, if_neg (by omega), Option.none_or]

/-- The overlay of a list of buffers one by one, the later over the earlier. -/
def layered (acc : Memory α) (l : List (Memory α)) : Memory α := l.foldl (fun acc m => overlay m acc) acc

theorem layered_spec (l : List (Memory α)) (acc : Memory α) (ha : wf acc = true) (hl : ∀ m ∈ l, wf m = true) :
    wf (layered acc l) = true ∧
      ∀ a, read (layered acc l) a = (read (layered [] l) a).or (read acc a) := by
  induction l generalizing acc with
  | nil => exact ⟨ha, fun a => by simp [layered]⟩
  | cons m l ih =>
    have hm := hl m (by simp)
    have hl' : ∀ x ∈ l, wf x = true := fun x hx => hl x (by simp [hx])
    have h1 := ih (overlay m acc) (wf_overlay m acc hm ha) hl'
    have h2 := ih (overlay m []) (wf_overlay m [] hm rfl) hl'
    refine ⟨h1.1, fun a => ?_⟩
    have e1 : layered acc (m :: l) = layered (overlay m acc) l := rfl
    have e2 : layered [] (m :: l) = layered (overlay m []) l := rfl
    rw [e1, e2, h1.2, h2.2, read_overlay m acc hm ha, read_overlay m [] hm rfl]
    simp [Option.or_assoc]

theorem mergePairs_spec (l : List (Memory α)) (hl : ∀ m ∈ l, wf m = true) :
    (∀ m ∈ mergePairs l, wf m = true) ∧
      ∀ acc : Memory α, wf acc = true → ∀ a, read (layered acc (mergePairs l)) a = read (layered acc l) a := by
  induction l using mergePairs.induct with
  | case1 x y rest ih =>
    have hx := hl x (by simp)
    have hy := hl y (by simp)
    have hrest : ∀ m ∈ rest, wf m = true := fun m hm => hl m (by simp [hm])
    obtain ⟨h1, h2⟩ := ih hrest
    refine ⟨?_, fun acc ha a => ?_⟩
    · intro m hm
      rw [mergePairs] at hm
      rcases List.mem_cons.1 hm with rfl | h
      · exact wf_overlay y x hy hx
      · exact h1 m h
    · have hyx := wf_overlay y x hy hx
      have e1 : layered acc (mergePairs (x :: y :: rest)) = layered (overlay (overlay y x) acc) (mergePairs rest) := by
        simp [mergePairs, layered]
      have e2 : layered acc (x :: y :: rest) = layered (overlay y (overlay x acc)) rest := rfl
      have hxa := wf_overlay x acc hx ha
      have hya := wf_overlay y _ hy hxa
      have hyxa := wf_overlay _ acc hyx ha
      rw [e1, e2, h2 _ hyxa, (layered_spec rest _ hyxa hrest).2, (layered_spec rest _ hya hrest).2,
        read_overlay _ acc hyx ha, read_overlay y x hy hx, read_overlay y _ hy hxa, read_overlay x acc hx ha]
      simp [Option.or_assoc]
  | case2 l h =>
    unfold mergePairs
    exact ⟨by simpa using hl, fun acc ha a => by simp⟩

theorem mergeAll_spec (fuel : Nat) (l : List (Memory α)) (hl : ∀ m ∈ l, wf m = true) :
    wf (mergeAll fuel l) = true ∧ ∀ a, read (mergeAll fuel l) a = read (layered [] l) a := by
  induction fuel generalizing l with
  | zero => exact ⟨(layered_spec l [] rfl hl).1, fun a => rfl⟩
  | succ fuel ih =>
    match l with
    | [] => exact ⟨rfl, fun a => rfl⟩
    | [m] =>
      have hm := hl m (by simp)
      refine ⟨hm, fun a => ?_⟩
      have : layered [] [m] = overlay m [] := rfl
      rw [this, read_overlay m [] hm rfl]
      simp [mergeAll]
    | x :: y :: rest =>
      obtain ⟨h1, h2⟩ := mergePairs_spec (x :: y :: rest) hl
      obtain ⟨h3, h4⟩ := ih _ h1
      exact ⟨h3, fun a => by rw [mergeAll, h4, h2 [] rfl]⟩

theorem wf_of_mem_singletons (ws : List (Nat × α)) : ∀ m ∈ ws.map (fun e => ([e] : Memory α)), wf m = true := by
  intro m hm
  obtain ⟨e, -, rfl⟩ := List.mem_map.1 hm
  rfl

theorem read_layered_singletons (ws : List (Nat × α)) (a : Nat) :
    read (layered [] (ws.map fun e => [e])) a = read ws.reverse a := by
  induction ws using List.reverseRecOn with
  | nil => rfl
  | append_singleton ws e ih =>
    have hw : ∀ (l : List (Nat × α)), wf (layered [] (l.map fun e => [e])) = true := fun l =>
      (layered_spec (l.map fun e => [e]) [] rfl (wf_of_mem_singletons l)).1
    obtain ⟨k, v⟩ := e
    have e1 : layered [] ((ws ++ [(k, v)]).map fun e => [e]) = overlay [(k, v)] (layered [] (ws.map fun e => [e])) := by
      simp [layered]
    rw [e1, read_overlay _ _ rfl (hw ws), ih, List.reverse_append, List.reverse_singleton, List.singleton_append,
      read_cons, read_cons]
    split <;> simp

theorem wf_writeAll (m : Memory α) (hm : wf m = true) (ws : List (Nat × α)) : wf (m.writeAll ws) = true :=
  wf_overlay _ _ (mergeAll_spec 32 _ (wf_of_mem_singletons ws)).1 hm

/-- After a list of writes an index reads as its last write, or as before if there was none. -/
theorem read_writeAll (m : Memory α) (hm : wf m = true) (ws : List (Nat × α)) (a : Nat) :
    read (m.writeAll ws) a = (read ws.reverse a).or (read m a) := by
  have h := mergeAll_spec 32 (ws.map fun e => [e]) (wf_of_mem_singletons ws)
  rw [writeAll, read_overlay _ _ h.1 hm, h.2, read_layered_singletons]

/-- A list of writes is the writes one after another. -/
theorem writeAll_eq_foldl (m : Memory α) (hm : wf m = true) (ws : List (Nat × α)) :
    m.writeAll ws = ws.foldl (fun m e => m.write e.1 e.2) m := by
  have hf : ∀ (l : List (Nat × α)), wf (l.foldl (fun m e => m.write e.1 e.2) m) = true ∧
      ∀ a, read (l.foldl (fun m e => m.write e.1 e.2) m) a = (read l.reverse a).or (read m a) := by
    intro l
    induction l using List.reverseRecOn with
    | nil => exact ⟨hm, fun a => by simp⟩
    | append_singleton l e ih =>
      obtain ⟨k, v⟩ := e
      rw [List.foldl_append]
      refine ⟨wf_write _ ih.1 _ _, fun a => ?_⟩
      simp only [List.foldl_cons, List.foldl_nil]
      rw [read_write _ ih.1, ih.2, List.reverse_append, List.reverse_singleton, List.singleton_append, read_cons]
      split <;> simp
  exact eq_of_read_eq _ _ (wf_writeAll m hm ws) (hf ws).1 (fun a => by rw [read_writeAll m hm, (hf ws).2])

/-- Below the first index nothing is listed, so a run that starts there is not all there. -/
theorem readRun_cons_gt (k : Nat) (v : α) (m : Memory α) (a n : Nat) (h : a < k) :
    readRun ((k, v) :: m) a (n + 1) = none := by
  rw [readRun, if_neg (by omega), if_neg (by omega)]

/-- A run of entries reads as vs exactly when each of its indices does. -/
theorem readRun_eq_some_iff (m : Memory α) (hm : wf m = true) (a n : Nat) (vs : List α) :
    readRun m a n = some vs ↔ vs.length = n ∧ ∀ i < n, read m (a + i) = vs[i]? := by
  induction m generalizing a n vs with
  | nil =>
    cases n with
    | zero => simp [readRun, eq_comm]
    | succ n =>
      simp only [readRun, read_nil, reduceCtorEq, false_iff, not_and]
      intro hl h
      have := h 0 (by omega)
      rw [List.getElem?_eq_getElem (by omega)] at this
      simp at this
  | cons e m ih =>
    obtain ⟨k, v⟩ := e
    rw [wf_cons] at hm
    cases n with
    | zero => simp [readRun, eq_comm]
    | succ n =>
      rw [readRun]
      split
      · rename_i hlt
        rw [ih hm.2]
        refine and_congr_right fun _ => forall₂_congr fun i _ => ?_
        rw [read_cons, if_neg (by omega)]
      · split
        · rename_i hge heq
          subst heq
          simp only [Option.map_eq_some_iff]
          constructor
          · rintro ⟨ws, hws, rfl⟩
            rw [ih hm.2] at hws
            refine ⟨by simp [hws.1], fun i hi => ?_⟩
            cases i with
            | zero => simp [read_cons]
            | succ i =>
              rw [read_cons, if_neg (by omega), List.getElem?_cons_succ, ← hws.2 i (by omega)]
              congr 1
              omega
          · rintro ⟨hl, h⟩
            cases vs with
            | nil => simp at hl
            | cons w ws =>
              have h0 := h 0 (by omega)
              simp only [Nat.add_zero, read_cons, if_true, List.getElem?_cons_zero, Option.some.injEq] at h0
              subst h0
              refine ⟨ws, (ih hm.2 _ _ _).2 ⟨by simpa using hl, fun i hi => ?_⟩, rfl⟩
              have := h (i + 1) (by omega)
              rw [read_cons, if_neg (by omega), List.getElem?_cons_succ] at this
              rw [← this]
              congr 1
              omega
        · rename_i hge hne
          simp only [reduceCtorEq, false_iff, not_and]
          intro hl h
          have h0 := h 0 (by omega)
          rw [List.getElem?_eq_getElem (by omega), Nat.add_zero, read_cons, if_neg hne,
            read_eq_none_of_forall_ne m a (fun e he => by have := hm.1 e he; omega)] at h0
          simp at h0

/-- What the rows of a grid read as. -/
theorem readRows_eq_some_iff (m : Memory α) (w : Nat) (rs : List Nat) (rows : List (List α)) :
    readRows m w rs = some rows ↔ List.Forall₂ (fun r row => readRun m (256 * r) w = some row) rs rows := by
  induction rs generalizing rows with
  | nil => simp [readRows, eq_comm]
  | cons r rs ih =>
    rw [readRows]
    cases h1 : readRun m (256 * r) w with
    | none => simp [List.forall₂_cons_left_iff, h1]
    | some row =>
      cases h2 : readRows m w rs with
      | none =>
        simp only [reduceCtorEq, List.forall₂_cons_left_iff, h1, Option.some.injEq, false_iff, not_exists, not_and]
        intro row' rows' _ hf
        rw [← ih, h2] at hf
        simp at hf
      | some rows' =>
        simp only [Option.some.injEq, List.forall₂_cons_left_iff, h1]
        constructor
        · rintro rfl
          exact ⟨row, rows', rfl, (ih _).1 h2, rfl⟩
        · rintro ⟨row'', rows'', rfl, hf, rfl⟩
          rw [← ih, h2] at hf
          cases hf
          rfl

theorem mem_ofGrid (f : Nat → Nat → α) (e : Nat × α) :
    e ∈ ofGrid f ↔ ∃ r c, r < 177 ∧ c < 177 ∧ e = (256 * r + c, f r c) := by
  simp only [ofGrid, List.mem_flatMap, List.mem_range, List.mem_map]
  constructor
  · rintro ⟨r, hr, c, hc, rfl⟩
    exact ⟨r, c, hr, hc, rfl⟩
  · rintro ⟨r, c, hr, hc, rfl⟩
    exact ⟨r, hr, c, hc, rfl⟩

theorem wf_ofGrid (f : Nat → Nat → α) : wf (ofGrid f) = true := by
  rw [wf_iff_pairwise, ofGrid, List.pairwise_flatMap]
  refine ⟨fun r hr => ?_, ?_⟩
  · rw [List.pairwise_map]
    exact List.pairwise_lt_range.imp (fun h => by simp only; omega)
  · refine List.pairwise_lt_range.imp ?_
    intro r r' h x hx y hy
    simp only [List.mem_map, List.mem_range] at hx hy
    obtain ⟨c, hc, rfl⟩ := hx
    obtain ⟨c', hc', rfl⟩ := hy
    simp only
    omega

/-- A grid buffer holds f at every cell of the 177×177 grid and nothing else. -/
theorem read_ofGrid (f : Nat → Nat → α) (a : Nat) :
    read (ofGrid f) a = if a / 256 < 177 ∧ a % 256 < 177 then some (f (a / 256) (a % 256)) else none := by
  split
  · rename_i h
    apply read_eq_some_of_mem _ (wf_ofGrid f)
    rw [mem_ofGrid]
    exact ⟨a / 256, a % 256, h.1, h.2, by rw [Nat.div_add_mod]⟩
  · rename_i h
    apply read_eq_none_of_forall_ne
    intro e he hea
    rw [mem_ofGrid] at he
    obtain ⟨r, c, hr, hc, rfl⟩ := he
    simp only at hea
    omega

theorem read_ofGrid_cell (f : Nat → Nat → α) (r c : Nat) (hr : r < 177) (hc : c < 177) :
    read (ofGrid f) (256 * r + c) = some (f r c) := by
  rw [read_ofGrid, if_pos (by omega), show (256 * r + c) / 256 = r by omega, show (256 * r + c) % 256 = c by omega]

theorem below_iff (m : Memory α) (n : Nat) : below m n = true ↔ ∀ e ∈ m, e.1 < n := by
  simp [below]

theorem below_overlay (new old : Memory α) (hn : wf new = true) (ho : wf old = true) (n : Nat)
    (h1 : below new n = true) (h2 : below old n = true) : below (overlay new old) n = true := by
  rw [below_iff] at *
  intro e he
  rcases mem_overlay new old hn ho e he with h | h
  · exact h1 e h
  · exact h2 e h

theorem below_writeRun (m : Memory α) (hm : wf m = true) (a : Nat) (vs : List α) (n : Nat)
    (h : below m n = true) (hn : a + vs.length ≤ n) : below (m.writeRun a vs) n = true :=
  below_overlay _ _ (wf_ofRun vs a) hm n
    ((below_iff ..).2 fun e he => by have := ofRun_ge vs a e he; omega) h

end Sys2Proof.Machine.Memory
end

