-- ==== Sys2Proof/Laws/State.lean ====
section
/-! SUPPORT. One lemma per field per update of the state, true by rfl, so that no proof unfolds a record update. -/

namespace Sys2Proof.Machine

@[simp] theorem applyReset_config (s : State) : (applyReset s).config = State.reset.config := rfl
@[simp] theorem applyReset_lastCmd (s : State) : (applyReset s).lastCmd = State.reset.lastCmd := rfl
@[simp] theorem applyReset_status (s : State) : (applyReset s).status = State.reset.status := rfl
@[simp] theorem applyReset_errinfo (s : State) : (applyReset s).errinfo = State.reset.errinfo := rfl
@[simp] theorem applyReset_rsSrc (s : State) : (applyReset s).rsSrc = State.reset.rsSrc := rfl
@[simp] theorem applyReset_matMask (s : State) : (applyReset s).matMask = State.reset.matMask := rfl
@[simp] theorem applyReset_job (s : State) : (applyReset s).job = State.reset.job := rfl
@[simp] theorem applyReset_bchOut (s : State) : (applyReset s).bchOut = State.reset.bchOut := rfl
@[simp] theorem applyReset_seqLen (s : State) : (applyReset s).seqLen = State.reset.seqLen := rfl
@[simp] theorem applyReset_pen (s : State) : (applyReset s).pen = State.reset.pen := rfl
@[simp] theorem applyReset_dbuf (s : State) : (applyReset s).dbuf = State.reset.dbuf := rfl
@[simp] theorem applyReset_seq (s : State) : (applyReset s).seq = State.reset.seq := rfl
@[simp] theorem applyReset_pbuf (s : State) : (applyReset s).pbuf = State.reset.pbuf := rfl
@[simp] theorem applyReset_frame (s : State) : (applyReset s).frame = State.reset.frame := rfl
@[simp] theorem applyReset_matrix (s : State) : (applyReset s).matrix = State.reset.matrix := rfl
@[simp] theorem applyReset_inflight (s : State) : (applyReset s).inflight = State.reset.inflight := rfl
@[simp] theorem applyReset_agenda (s : State) : (applyReset s).agenda = s.agenda := rfl
@[simp] theorem applyReset_resetPin (s : State) : (applyReset s).resetPin = s.resetPin := rfl
@[simp] theorem applyReset_response (s : State) : (applyReset s).response = s.response := rfl
@[simp] theorem applyReset_freeCount (s : State) : (applyReset s).freeCount = s.freeCount := rfl

@[simp] theorem accept_config (x : Word) (s : State) : (accept x s).config = s.config := rfl
@[simp] theorem accept_lastCmd (x : Word) (s : State) : (accept x s).lastCmd = x := rfl
@[simp] theorem accept_status (x : Word) (s : State) : (accept x s).status = { s.status with done := false } := rfl
@[simp] theorem accept_errinfo (x : Word) (s : State) : (accept x s).errinfo = s.errinfo := rfl
@[simp] theorem accept_rsSrc (x : Word) (s : State) : (accept x s).rsSrc = s.rsSrc := rfl
@[simp] theorem accept_matMask (x : Word) (s : State) : (accept x s).matMask = s.matMask := rfl
@[simp] theorem accept_job (x : Word) (s : State) : (accept x s).job = s.job := rfl
@[simp] theorem accept_bchOut (x : Word) (s : State) : (accept x s).bchOut = s.bchOut := rfl
@[simp] theorem accept_seqLen (x : Word) (s : State) : (accept x s).seqLen = s.seqLen := rfl
@[simp] theorem accept_pen (x : Word) (s : State) : (accept x s).pen = s.pen := rfl
@[simp] theorem accept_dbuf (x : Word) (s : State) : (accept x s).dbuf = s.dbuf := rfl
@[simp] theorem accept_seq (x : Word) (s : State) : (accept x s).seq = s.seq := rfl
@[simp] theorem accept_pbuf (x : Word) (s : State) : (accept x s).pbuf = s.pbuf := rfl
@[simp] theorem accept_frame (x : Word) (s : State) : (accept x s).frame = s.frame := rfl
@[simp] theorem accept_matrix (x : Word) (s : State) : (accept x s).matrix = s.matrix := rfl
@[simp] theorem accept_inflight (x : Word) (s : State) : (accept x s).inflight = some x := rfl
@[simp] theorem accept_agenda (x : Word) (s : State) : (accept x s).agenda = s.agenda := rfl
@[simp] theorem accept_resetPin (x : Word) (s : State) : (accept x s).resetPin = s.resetPin := rfl
@[simp] theorem accept_response (x : Word) (s : State) : (accept x s).response = s.response := rfl
@[simp] theorem accept_freeCount (x : Word) (s : State) : (accept x s).freeCount = s.freeCount := rfl

@[simp] theorem discard_config (s : State) : (discard s).config = s.config := rfl
@[simp] theorem discard_lastCmd (s : State) : (discard s).lastCmd = s.lastCmd := rfl
@[simp] theorem discard_status (s : State) : (discard s).status = { s.status with ovr := true } := rfl
@[simp] theorem discard_errinfo (s : State) : (discard s).errinfo = s.errinfo := rfl
@[simp] theorem discard_rsSrc (s : State) : (discard s).rsSrc = s.rsSrc := rfl
@[simp] theorem discard_matMask (s : State) : (discard s).matMask = s.matMask := rfl
@[simp] theorem discard_job (s : State) : (discard s).job = s.job := rfl
@[simp] theorem discard_bchOut (s : State) : (discard s).bchOut = s.bchOut := rfl
@[simp] theorem discard_seqLen (s : State) : (discard s).seqLen = s.seqLen := rfl
@[simp] theorem discard_pen (s : State) : (discard s).pen = s.pen := rfl
@[simp] theorem discard_dbuf (s : State) : (discard s).dbuf = s.dbuf := rfl
@[simp] theorem discard_seq (s : State) : (discard s).seq = s.seq := rfl
@[simp] theorem discard_pbuf (s : State) : (discard s).pbuf = s.pbuf := rfl
@[simp] theorem discard_frame (s : State) : (discard s).frame = s.frame := rfl
@[simp] theorem discard_matrix (s : State) : (discard s).matrix = s.matrix := rfl
@[simp] theorem discard_inflight (s : State) : (discard s).inflight = s.inflight := rfl
@[simp] theorem discard_agenda (s : State) : (discard s).agenda = s.agenda := rfl
@[simp] theorem discard_resetPin (s : State) : (discard s).resetPin = s.resetPin := rfl
@[simp] theorem discard_response (s : State) : (discard s).response = s.response := rfl
@[simp] theorem discard_freeCount (s : State) : (discard s).freeCount = s.freeCount := rfl

@[simp] theorem completeOk_config (s : State) : (completeOk s).config = s.config := rfl
@[simp] theorem completeOk_lastCmd (s : State) : (completeOk s).lastCmd = s.lastCmd := rfl
@[simp] theorem completeOk_status (s : State) : (completeOk s).status = { s.status with done := true } := rfl
@[simp] theorem completeOk_errinfo (s : State) : (completeOk s).errinfo = s.errinfo := rfl
@[simp] theorem completeOk_rsSrc (s : State) : (completeOk s).rsSrc = s.rsSrc := rfl
@[simp] theorem completeOk_matMask (s : State) : (completeOk s).matMask = s.matMask := rfl
@[simp] theorem completeOk_job (s : State) : (completeOk s).job = s.job := rfl
@[simp] theorem completeOk_bchOut (s : State) : (completeOk s).bchOut = s.bchOut := rfl
@[simp] theorem completeOk_seqLen (s : State) : (completeOk s).seqLen = s.seqLen := rfl
@[simp] theorem completeOk_pen (s : State) : (completeOk s).pen = s.pen := rfl
@[simp] theorem completeOk_dbuf (s : State) : (completeOk s).dbuf = s.dbuf := rfl
@[simp] theorem completeOk_seq (s : State) : (completeOk s).seq = s.seq := rfl
@[simp] theorem completeOk_pbuf (s : State) : (completeOk s).pbuf = s.pbuf := rfl
@[simp] theorem completeOk_frame (s : State) : (completeOk s).frame = s.frame := rfl
@[simp] theorem completeOk_matrix (s : State) : (completeOk s).matrix = s.matrix := rfl
@[simp] theorem completeOk_inflight (s : State) : (completeOk s).inflight = none := rfl
@[simp] theorem completeOk_agenda (s : State) : (completeOk s).agenda = s.agenda := rfl
@[simp] theorem completeOk_resetPin (s : State) : (completeOk s).resetPin = s.resetPin := rfl
@[simp] theorem completeOk_response (s : State) : (completeOk s).response = s.response := rfl
@[simp] theorem completeOk_freeCount (s : State) : (completeOk s).freeCount = s.freeCount := rfl

@[simp] theorem raiseError_config (opc : Byte) (e : ErrCode) (s : State) : (raiseError opc e s).config = s.config := rfl
@[simp] theorem raiseError_lastCmd (opc : Byte) (e : ErrCode) (s : State) : (raiseError opc e s).lastCmd = s.lastCmd := rfl
@[simp] theorem raiseError_status (opc : Byte) (e : ErrCode) (s : State) : (raiseError opc e s).status = { s.status with err := true, done := true } := rfl
@[simp] theorem raiseError_errinfo (opc : Byte) (e : ErrCode) (s : State) : (raiseError opc e s).errinfo = ⟨opc, e⟩ := rfl
@[simp] theorem raiseError_rsSrc (opc : Byte) (e : ErrCode) (s : State) : (raiseError opc e s).rsSrc = s.rsSrc := rfl
@[simp] theorem raiseError_matMask (opc : Byte) (e : ErrCode) (s : State) : (raiseError opc e s).matMask = s.matMask := rfl
@[simp] theorem raiseError_job (opc : Byte) (e : ErrCode) (s : State) : (raiseError opc e s).job = s.job := rfl
@[simp] theorem raiseError_bchOut (opc : Byte) (e : ErrCode) (s : State) : (raiseError opc e s).bchOut = s.bchOut := rfl
@[simp] theorem raiseError_seqLen (opc : Byte) (e : ErrCode) (s : State) : (raiseError opc e s).seqLen = s.seqLen := rfl
@[simp] theorem raiseError_pen (opc : Byte) (e : ErrCode) (s : State) : (raiseError opc e s).pen = s.pen := rfl
@[simp] theorem raiseError_dbuf (opc : Byte) (e : ErrCode) (s : State) : (raiseError opc e s).dbuf = s.dbuf := rfl
@[simp] theorem raiseError_seq (opc : Byte) (e : ErrCode) (s : State) : (raiseError opc e s).seq = s.seq := rfl
@[simp] theorem raiseError_pbuf (opc : Byte) (e : ErrCode) (s : State) : (raiseError opc e s).pbuf = s.pbuf := rfl
@[simp] theorem raiseError_frame (opc : Byte) (e : ErrCode) (s : State) : (raiseError opc e s).frame = s.frame := rfl
@[simp] theorem raiseError_matrix (opc : Byte) (e : ErrCode) (s : State) : (raiseError opc e s).matrix = s.matrix := rfl
@[simp] theorem raiseError_inflight (opc : Byte) (e : ErrCode) (s : State) : (raiseError opc e s).inflight = none := rfl
@[simp] theorem raiseError_agenda (opc : Byte) (e : ErrCode) (s : State) : (raiseError opc e s).agenda = s.agenda := rfl
@[simp] theorem raiseError_resetPin (opc : Byte) (e : ErrCode) (s : State) : (raiseError opc e s).resetPin = s.resetPin := rfl
@[simp] theorem raiseError_response (opc : Byte) (e : ErrCode) (s : State) : (raiseError opc e s).response = s.response := rfl
@[simp] theorem raiseError_freeCount (opc : Byte) (e : ErrCode) (s : State) : (raiseError opc e s).freeCount = s.freeCount := rfl

@[simp] theorem acknowledge_config (v : Word) (s : State) : (acknowledge v s).config = s.config := rfl
@[simp] theorem acknowledge_lastCmd (v : Word) (s : State) : (acknowledge v s).lastCmd = s.lastCmd := rfl
@[simp] theorem acknowledge_status (v : Word) (s : State) : (acknowledge v s).status = s.status.clear v := rfl
@[simp] theorem acknowledge_errinfo (v : Word) (s : State) : (acknowledge v s).errinfo = if v.getLsbD 2 then ErrInfoReg.clear else s.errinfo := rfl
@[simp] theorem acknowledge_rsSrc (v : Word) (s : State) : (acknowledge v s).rsSrc = s.rsSrc := rfl
@[simp] theorem acknowledge_matMask (v : Word) (s : State) : (acknowledge v s).matMask = s.matMask := rfl
@[simp] theorem acknowledge_job (v : Word) (s : State) : (acknowledge v s).job = s.job := rfl
@[simp] theorem acknowledge_bchOut (v : Word) (s : State) : (acknowledge v s).bchOut = s.bchOut := rfl
@[simp] theorem acknowledge_seqLen (v : Word) (s : State) : (acknowledge v s).seqLen = s.seqLen := rfl
@[simp] theorem acknowledge_pen (v : Word) (s : State) : (acknowledge v s).pen = s.pen := rfl
@[simp] theorem acknowledge_dbuf (v : Word) (s : State) : (acknowledge v s).dbuf = s.dbuf := rfl
@[simp] theorem acknowledge_seq (v : Word) (s : State) : (acknowledge v s).seq = s.seq := rfl
@[simp] theorem acknowledge_pbuf (v : Word) (s : State) : (acknowledge v s).pbuf = s.pbuf := rfl
@[simp] theorem acknowledge_frame (v : Word) (s : State) : (acknowledge v s).frame = s.frame := rfl
@[simp] theorem acknowledge_matrix (v : Word) (s : State) : (acknowledge v s).matrix = s.matrix := rfl
@[simp] theorem acknowledge_inflight (v : Word) (s : State) : (acknowledge v s).inflight = s.inflight := rfl
@[simp] theorem acknowledge_agenda (v : Word) (s : State) : (acknowledge v s).agenda = s.agenda := rfl
@[simp] theorem acknowledge_resetPin (v : Word) (s : State) : (acknowledge v s).resetPin = s.resetPin := rfl
@[simp] theorem acknowledge_response (v : Word) (s : State) : (acknowledge v s).response = s.response := rfl
@[simp] theorem acknowledge_freeCount (v : Word) (s : State) : (acknowledge v s).freeCount = s.freeCount := rfl

@[simp] theorem showSymbol_config (S : List (List Bool)) (m : Fin 8) (s : State) : (showSymbol S m s).config = s.config := rfl
@[simp] theorem showSymbol_lastCmd (S : List (List Bool)) (m : Fin 8) (s : State) : (showSymbol S m s).lastCmd = s.lastCmd := rfl
@[simp] theorem showSymbol_status (S : List (List Bool)) (m : Fin 8) (s : State) : (showSymbol S m s).status = { s.status with matv := true } := rfl
@[simp] theorem showSymbol_errinfo (S : List (List Bool)) (m : Fin 8) (s : State) : (showSymbol S m s).errinfo = s.errinfo := rfl
@[simp] theorem showSymbol_rsSrc (S : List (List Bool)) (m : Fin 8) (s : State) : (showSymbol S m s).rsSrc = s.rsSrc := rfl
@[simp] theorem showSymbol_matMask (S : List (List Bool)) (m : Fin 8) (s : State) : (showSymbol S m s).matMask = m := rfl
@[simp] theorem showSymbol_job (S : List (List Bool)) (m : Fin 8) (s : State) : (showSymbol S m s).job = s.job := rfl
@[simp] theorem showSymbol_bchOut (S : List (List Bool)) (m : Fin 8) (s : State) : (showSymbol S m s).bchOut = s.bchOut := rfl
@[simp] theorem showSymbol_seqLen (S : List (List Bool)) (m : Fin 8) (s : State) : (showSymbol S m s).seqLen = s.seqLen := rfl
@[simp] theorem showSymbol_pen (S : List (List Bool)) (m : Fin 8) (s : State) : (showSymbol S m s).pen = s.pen := rfl
@[simp] theorem showSymbol_dbuf (S : List (List Bool)) (m : Fin 8) (s : State) : (showSymbol S m s).dbuf = s.dbuf := rfl
@[simp] theorem showSymbol_seq (S : List (List Bool)) (m : Fin 8) (s : State) : (showSymbol S m s).seq = s.seq := rfl
@[simp] theorem showSymbol_pbuf (S : List (List Bool)) (m : Fin 8) (s : State) : (showSymbol S m s).pbuf = s.pbuf := rfl
@[simp] theorem showSymbol_frame (S : List (List Bool)) (m : Fin 8) (s : State) : (showSymbol S m s).frame = s.frame := rfl
@[simp] theorem showSymbol_matrix (S : List (List Bool)) (m : Fin 8) (s : State) : (showSymbol S m s).matrix = matrixImage S := rfl
@[simp] theorem showSymbol_inflight (S : List (List Bool)) (m : Fin 8) (s : State) : (showSymbol S m s).inflight = s.inflight := rfl
@[simp] theorem showSymbol_agenda (S : List (List Bool)) (m : Fin 8) (s : State) : (showSymbol S m s).agenda = s.agenda := rfl
@[simp] theorem showSymbol_resetPin (S : List (List Bool)) (m : Fin 8) (s : State) : (showSymbol S m s).resetPin = s.resetPin := rfl
@[simp] theorem showSymbol_response (S : List (List Bool)) (m : Fin 8) (s : State) : (showSymbol S m s).response = s.response := rfl
@[simp] theorem showSymbol_freeCount (S : List (List Bool)) (m : Fin 8) (s : State) : (showSymbol S m s).freeCount = s.freeCount := rfl

@[simp] theorem respond_config (v : Word) (s : State) : (respond v s).config = s.config := rfl
@[simp] theorem respond_lastCmd (v : Word) (s : State) : (respond v s).lastCmd = s.lastCmd := rfl
@[simp] theorem respond_status (v : Word) (s : State) : (respond v s).status = s.status := rfl
@[simp] theorem respond_errinfo (v : Word) (s : State) : (respond v s).errinfo = s.errinfo := rfl
@[simp] theorem respond_rsSrc (v : Word) (s : State) : (respond v s).rsSrc = s.rsSrc := rfl
@[simp] theorem respond_matMask (v : Word) (s : State) : (respond v s).matMask = s.matMask := rfl
@[simp] theorem respond_job (v : Word) (s : State) : (respond v s).job = s.job := rfl
@[simp] theorem respond_bchOut (v : Word) (s : State) : (respond v s).bchOut = s.bchOut := rfl
@[simp] theorem respond_seqLen (v : Word) (s : State) : (respond v s).seqLen = s.seqLen := rfl
@[simp] theorem respond_pen (v : Word) (s : State) : (respond v s).pen = s.pen := rfl
@[simp] theorem respond_dbuf (v : Word) (s : State) : (respond v s).dbuf = s.dbuf := rfl
@[simp] theorem respond_seq (v : Word) (s : State) : (respond v s).seq = s.seq := rfl
@[simp] theorem respond_pbuf (v : Word) (s : State) : (respond v s).pbuf = s.pbuf := rfl
@[simp] theorem respond_frame (v : Word) (s : State) : (respond v s).frame = s.frame := rfl
@[simp] theorem respond_matrix (v : Word) (s : State) : (respond v s).matrix = s.matrix := rfl
@[simp] theorem respond_inflight (v : Word) (s : State) : (respond v s).inflight = s.inflight := rfl
@[simp] theorem respond_agenda (v : Word) (s : State) : (respond v s).agenda = s.agenda := rfl
@[simp] theorem respond_resetPin (v : Word) (s : State) : (respond v s).resetPin = s.resetPin := rfl
@[simp] theorem respond_response (v : Word) (s : State) : (respond v s).response = .data v := rfl
@[simp] theorem respond_freeCount (v : Word) (s : State) : (respond v s).freeCount = s.freeCount := rfl

@[simp] theorem drawFree_config (s : State) : (drawFree s).config = s.config := rfl
@[simp] theorem drawFree_lastCmd (s : State) : (drawFree s).lastCmd = s.lastCmd := rfl
@[simp] theorem drawFree_status (s : State) : (drawFree s).status = s.status := rfl
@[simp] theorem drawFree_errinfo (s : State) : (drawFree s).errinfo = s.errinfo := rfl
@[simp] theorem drawFree_rsSrc (s : State) : (drawFree s).rsSrc = s.rsSrc := rfl
@[simp] theorem drawFree_matMask (s : State) : (drawFree s).matMask = s.matMask := rfl
@[simp] theorem drawFree_job (s : State) : (drawFree s).job = s.job := rfl
@[simp] theorem drawFree_bchOut (s : State) : (drawFree s).bchOut = s.bchOut := rfl
@[simp] theorem drawFree_seqLen (s : State) : (drawFree s).seqLen = s.seqLen := rfl
@[simp] theorem drawFree_pen (s : State) : (drawFree s).pen = s.pen := rfl
@[simp] theorem drawFree_dbuf (s : State) : (drawFree s).dbuf = s.dbuf := rfl
@[simp] theorem drawFree_seq (s : State) : (drawFree s).seq = s.seq := rfl
@[simp] theorem drawFree_pbuf (s : State) : (drawFree s).pbuf = s.pbuf := rfl
@[simp] theorem drawFree_frame (s : State) : (drawFree s).frame = s.frame := rfl
@[simp] theorem drawFree_matrix (s : State) : (drawFree s).matrix = s.matrix := rfl
@[simp] theorem drawFree_inflight (s : State) : (drawFree s).inflight = s.inflight := rfl
@[simp] theorem drawFree_agenda (s : State) : (drawFree s).agenda = s.agenda := rfl
@[simp] theorem drawFree_resetPin (s : State) : (drawFree s).resetPin = s.resetPin := rfl
@[simp] theorem drawFree_response (s : State) : (drawFree s).response = s.response := rfl
@[simp] theorem drawFree_freeCount (s : State) : (drawFree s).freeCount = s.freeCount + 1 := rfl

@[simp] theorem inFlightNext_config (x : Word) (s : State) : (inFlightNext x s).config = s.config := rfl
@[simp] theorem inFlightNext_lastCmd (x : Word) (s : State) : (inFlightNext x s).lastCmd = x := rfl
@[simp] theorem inFlightNext_status (x : Word) (s : State) : (inFlightNext x s).status = { s.status with done := false } := rfl
@[simp] theorem inFlightNext_errinfo (x : Word) (s : State) : (inFlightNext x s).errinfo = s.errinfo := rfl
@[simp] theorem inFlightNext_rsSrc (x : Word) (s : State) : (inFlightNext x s).rsSrc = s.rsSrc := rfl
@[simp] theorem inFlightNext_matMask (x : Word) (s : State) : (inFlightNext x s).matMask = s.matMask := rfl
@[simp] theorem inFlightNext_job (x : Word) (s : State) : (inFlightNext x s).job = s.job := rfl
@[simp] theorem inFlightNext_bchOut (x : Word) (s : State) : (inFlightNext x s).bchOut = s.bchOut := rfl
@[simp] theorem inFlightNext_seqLen (x : Word) (s : State) : (inFlightNext x s).seqLen = s.seqLen := rfl
@[simp] theorem inFlightNext_pen (x : Word) (s : State) : (inFlightNext x s).pen = s.pen := rfl
@[simp] theorem inFlightNext_dbuf (x : Word) (s : State) : (inFlightNext x s).dbuf = s.dbuf := rfl
@[simp] theorem inFlightNext_seq (x : Word) (s : State) : (inFlightNext x s).seq = s.seq := rfl
@[simp] theorem inFlightNext_pbuf (x : Word) (s : State) : (inFlightNext x s).pbuf = s.pbuf := rfl
@[simp] theorem inFlightNext_frame (x : Word) (s : State) : (inFlightNext x s).frame = s.frame := rfl
@[simp] theorem inFlightNext_matrix (x : Word) (s : State) : (inFlightNext x s).matrix = s.matrix := rfl
@[simp] theorem inFlightNext_inflight (x : Word) (s : State) : (inFlightNext x s).inflight = some x := rfl
@[simp] theorem inFlightNext_agenda (x : Word) (s : State) : (inFlightNext x s).agenda = .engine :: s.agenda := rfl
@[simp] theorem inFlightNext_resetPin (x : Word) (s : State) : (inFlightNext x s).resetPin = s.resetPin := rfl
@[simp] theorem inFlightNext_response (x : Word) (s : State) : (inFlightNext x s).response = s.response := rfl
@[simp] theorem inFlightNext_freeCount (x : Word) (s : State) : (inFlightNext x s).freeCount = s.freeCount := rfl

@[simp] theorem applyReset_busy (s : State) : (applyReset s).busy = false := rfl
@[simp] theorem accept_busy (x : Word) (s : State) : (accept x s).busy = true := rfl
@[simp] theorem discard_busy (s : State) : (discard s).busy = s.busy := rfl
@[simp] theorem completeOk_busy (s : State) : (completeOk s).busy = false := rfl
@[simp] theorem raiseError_busy (opc : Byte) (e : ErrCode) (s : State) : (raiseError opc e s).busy = false := rfl
@[simp] theorem acknowledge_busy (v : Word) (s : State) : (acknowledge v s).busy = s.busy := rfl

@[simp] theorem clear_seqv (f : StatusReg) (v : Word) : (f.clear v).seqv = f.seqv := rfl
@[simp] theorem clear_frmv (f : StatusReg) (v : Word) : (f.clear v).frmv = f.frmv := rfl
@[simp] theorem clear_plcd (f : StatusReg) (v : Word) : (f.clear v).plcd = f.plcd := rfl
@[simp] theorem clear_matv (f : StatusReg) (v : Word) : (f.clear v).matv = f.matv := rfl
@[simp] theorem clear_done (f : StatusReg) (v : Word) : (f.clear v).done = (f.done && !v.getLsbD 1) := rfl
@[simp] theorem clear_err (f : StatusReg) (v : Word) : (f.clear v).err = (f.err && !v.getLsbD 2) := rfl
@[simp] theorem clear_ovr (f : StatusReg) (v : Word) : (f.clear v).ovr = (f.ovr && !v.getLsbD 3) := rfl

end Sys2Proof.Machine
end

