-- ==== Sys2Proof/Laws/Ops.lean ====
section
/-! SUPPORT. What each shared operation and each command can do, said once: when it answers a next state, which one. -/

namespace Sys2Proof.Machine

@[simp] theorem andThen_next (s : State) (f : State → Result) : andThen (.next s) f = f s := rfl
@[simp] theorem andThen_fault (r : Fault) (f : State → Result) : andThen (.fault r) f = .fault r := rfl
@[simp] theorem andThen_refused (r : Refusal) (f : State → Result) : andThen (.refused r) f = .refused r := rfl

/-- A sequence answers a next state exactly when both its parts do. -/
theorem andThen_eq_next (o : Result) (f : State → Result) (t : State) :
    andThen o f = .next t ↔ ∃ u, o = .next u ∧ f u = .next t := by
  cases o <;> simp [andThen]

theorem next_eq_next (s t : State) : (Host.Outcome.next s : Result) = .next t ↔ t = s := by
  simp [eq_comm]

/-- A body that is then completed. -/
theorem andThen_completeOk (o : Result) (t : State) :
    andThen o (fun u => .next (completeOk u)) = .next t ↔ ∃ u, o = .next u ∧ t = completeOk u := by
  simp only [andThen_eq_next, next_eq_next]

/-- Three effects in a row, bracketed either way. -/
theorem andThen_assoc (o : Result) (f g : State → Result) :
    andThen (andThen o f) g = andThen o (fun s => andThen (f s) g) := by
  cases o <;> rfl

/-- A CMD write is accepted or discarded (R400). -/
theorem submit_cases (x : Word) (s : State) :
    (s.busy = false ∧ s.status.err = false ∧ submit x s = accept x s) ∨
      ((s.busy = true ∨ s.status.err = true) ∧ submit x s = discard s) := by
  unfold submit
  cases s.busy <;> cases s.status.err <;> simp

/-- A write to an input is performed or discarded (R461). -/
theorem writeInput_cases (s t : State) :
    (s.busy = false ∧ writeInput s t = t) ∨ (s.busy = true ∧ writeInput s t = discard s) := by
  unfold writeInput
  cases s.busy <;> simp

/-- A host read that answers at all changes nothing but the response and the count of free values (R107). -/
theorem hostRead_next (w : Width) (a : Addr) (s t : State) (h : hostRead w a s = .next t) :
    ∃ v n, t = { s with response := .data v, freeCount := n } := by
  unfold hostRead at h
  split at h
  · simp at h
  · split at h
    · exact ⟨_, _, (Host.Outcome.next.inj h).symm⟩
    · exact ⟨_, _, (Host.Outcome.next.inj h).symm⟩
    · exact ⟨_, _, (Host.Outcome.next.inj h).symm⟩
    · simp at h

/-- A host write answers exactly when the access is legal, with the target's effect (R102, R103). -/
theorem hostWrite_next (w : Width) (a : Addr) (v : Word) (s t : State) :
    hostWrite w a v s = .next t ↔
      ∃ tgt off, legalAccess true w a = some (tgt, off) ∧ t = { writeTarget s tgt off w v with response := .written } := by
  unfold hostWrite
  cases legalAccess true w a with
  | none => simp
  | some p =>
    simp only [next_eq_next, Option.some.injEq]
    constructor
    · rintro rfl
      exact ⟨p.1, p.2, rfl, rfl⟩
    · rintro ⟨tgt, off, rfl, rfl⟩
      rfl

/-- What an event can be when it answers a next state. -/
theorem perform_next (e : Event) (s t : State) (h : perform e s = .next t) :
    (e = .engine ∧ engineTurn s = .next t) ∨
      (∃ b, e = .resetInput b ∧ t = changeReset b s) ∨
      (∃ w a, e = .read w a ∧ s.resetPin = false ∧ hostRead w a s = .next t) ∨
      (∃ w a v, e = .write w a v ∧ s.resetPin = false ∧ hostWrite w a v s = .next t) := by
  cases e with
  | engine => exact .inl ⟨rfl, h⟩
  | resetInput b => exact .inr (.inl ⟨b, rfl, (Host.Outcome.next.inj h).symm⟩)
  | read w a =>
    cases hp : s.resetPin <;> simp [perform, hp] at h
    exact .inr (.inr (.inl ⟨w, a, rfl, rfl, h⟩))
  | write w a v =>
    cases hp : s.resetPin <;> simp [perform, hp] at h
    exact .inr (.inr (.inr ⟨w, a, v, rfl, rfl, h⟩))

/-- What the engine's turn can be when it answers a next state. -/
theorem engineTurn_next (s t : State) (h : engineTurn s = .next t) :
    (s.inflight = none ∧ t = s) ∨
      ∃ x, s.inflight = some x ∧
        ((∃ i, decode x = .ok i ∧ exec i s = .next t) ∨
          ((∃ r, decode x = .error r) ∧ t = completeIllegal x s)) := by
  unfold engineTurn at h
  cases hx : s.inflight with
  | none => rw [hx] at h; exact .inl ⟨rfl, (Host.Outcome.next.inj h).symm⟩
  | some x =>
    rw [hx] at h
    refine .inr ⟨x, rfl, ?_⟩
    cases hd : decode x with
    | ok i => simp only [hd] at h; exact .inl ⟨i, rfl, h⟩
    | error r => simp only [hd] at h; exact .inr ⟨⟨r, rfl⟩, (Host.Outcome.next.inj h).symm⟩

/-- A step is the next event, on a state that no longer has it to come. -/
theorem step_cons (s : State) (e : Event) (rest : List Event) (h : s.agenda = e :: rest) :
    step s = perform e { s with agenda := rest } := by
  unfold step; rw [h]

theorem step_nil (s : State) (h : s.agenda = []) : step s = engineTurn s := by
  unfold step; rw [h]

/-! What each command can do. -/

theorem execNop_next (s t : State) : exec .nop s = .next t ↔ t = completeOk s := by
  simp [exec, execNop, eq_comm]

theorem execSrst_next (s t : State) : exec .srst s = .next t ↔ t = applyReset s := by
  simp [exec, execSrst, eq_comm]

theorem execRsenc_next (k nr : Nat) (s t : State) : exec (.rsenc k nr) s = .next t ↔
    (badRsOperands k nr s.rsSrc.toNat = true ∧ t = raiseError 0x10 .badrs s) ∨
      (badRsOperands k nr s.rsSrc.toNat = false ∧ ∃ d, readData s s.rsSrc.toNat k = some d ∧
        t = completeOk { s with pbuf := s.pbuf.writeRun 0 (rsParity d nr) }) := by
  simp only [exec, execRsenc, Instr.opc]
  cases badRsOperands k nr s.rsSrc.toNat
  · cases readData s s.rsSrc.toNat k <;> simp [eq_comm]
  · simp [eq_comm]

theorem eccbldBody_next (s t : State) : eccbldBody s = .next t ↔
    ∃ d, readData s 0 (dataCodewords s.version s.config.level) = some d ∧
      t = { s with
        seq := s.seq.writeRun 0 (codewordSequence (blockPlan s.version s.config.level) d)
        status := { s.status with seqv := true }
        job := { s.job with seqVer := s.config.version, seqLvl := s.config.level }
        seqLen := ⟨BitVec.ofNat 12 (totalCodewords s.version),
          BitVec.ofNat 12 (dataCodewords s.version s.config.level)⟩ } := by
  simp only [eccbldBody, dataCodewords]
  cases readData s 0 (blockPlan s.version s.config.level).dataCodewords <;> simp [eq_comm]

theorem execEccbld_next (s t : State) : exec .eccbld s = .next t ↔
    (legalVersion s.version = false ∧ t = raiseError 0x11 .badver s) ∨
      (legalVersion s.version = true ∧ ∃ u, eccbldBody s = .next u ∧ t = completeOk u) := by
  simp only [exec, execEccbld, Instr.opc]
  cases legalVersion s.version
  · simp only [Bool.not_false, if_true, next_eq_next, true_and, reduceCtorEq, false_and, or_false]
  · simp [andThen_completeOk]

theorem frminitBody_next (s t : State) : frminitBody s = .next t ↔
    t = { s with
      frame := frameImage s.version
      status := { s.status with frmv := true, plcd := false, matv := false }
      job := { s.job with frmVer := s.config.version }
      pen := noPenalties } := by
  simp [frminitBody, eq_comm]

theorem execFrminit_next (s t : State) : exec .frminit s = .next t ↔
    (legalVersion s.version = false ∧ t = raiseError 0x20 .badver s) ∨
      (legalVersion s.version = true ∧ ∃ u, frminitBody s = .next u ∧ t = completeOk u) := by
  simp only [exec, execFrminit, Instr.opc]
  cases legalVersion s.version
  · simp only [Bool.not_false, if_true, next_eq_next, true_and, reduceCtorEq, false_and, or_false]
  · simp [andThen_completeOk]

theorem placeBody_next (s t : State) : placeBody s = .next t ↔
    ∃ rows seq, readFrame s = some rows ∧ readSequence s (totalCodewords s.frameVersion) = some seq ∧
      (order s.frameWidth rows).length = (placedBits s.frameVersion seq).length ∧
      t = { s with
        frame := s.frame.writeAll (placements (order s.frameWidth rows) (placedBits s.frameVersion seq))
        status := { s.status with plcd := true }
        job := { s.job with plcLvl := s.job.seqLvl } } := by
  simp only [placeBody]
  cases readFrame s with
  | none => simp
  | some rows =>
    cases readSequence s (totalCodewords s.frameVersion) with
    | none => simp
    | some seq =>
      by_cases hl : (order s.frameWidth rows).length = (placedBits s.frameVersion seq).length
      · simp [hl, eq_comm]
      · simp [hl]

theorem execPlace_next (s t : State) : exec .place s = .next t ↔
    (s.cannotPlace = true ∧ t = raiseError 0x21 .sequence s) ∨
      (s.cannotPlace = false ∧ ∃ u, placeBody s = .next u ∧ t = completeOk u) := by
  simp only [exec, execPlace, Instr.opc]
  cases s.cannotPlace
  · simp [andThen_completeOk]
  · simp only [if_true, next_eq_next, true_and, reduceCtorEq, false_and, or_false]

theorem execMapply_next (m : Fin 8) (s t : State) : exec (.mapply m) s = .next t ↔
    (s.status.plcd = false ∧ t = raiseError 0x30 .sequence s) ∨
      (s.status.plcd = true ∧ ∃ rows, readFrame s = some rows ∧
        t = completeOk (showSymbol (s.symbol rows m) m s)) := by
  simp only [exec, execMapply, Instr.opc]
  cases s.status.plcd
  · simp [eq_comm]
  · cases readFrame s <;> simp [eq_comm]

theorem execMeval_next (m : Fin 8) (s t : State) : exec (.meval m) s = .next t ↔
    (s.status.plcd = false ∧ t = raiseError 0x31 .sequence s) ∨
      (s.status.plcd = true ∧ ∃ rows, readFrame s = some rows ∧
        t = completeOk { s with pen := s.pen.set m (BitVec.ofNat 32 (s.maskPenalty rows m)) }) := by
  simp only [exec, execMeval, Instr.opc]
  cases s.status.plcd
  · simp [eq_comm]
  · cases readFrame s <;> simp [eq_comm]

theorem mselBody_next (s t : State) : mselBody s = .next t ↔
    ∃ rows, readFrame s = some rows ∧
      ((firstMinimum none (s.candidates rows) = none ∧ t = { s with pen := penaltyFile (s.candidates rows) }) ∨
        ∃ best, firstMinimum none (s.candidates rows) = some best ∧
          t = showSymbol (s.symbol rows best.1) best.1 { s with pen := penaltyFile (s.candidates rows) }) := by
  simp only [mselBody]
  cases readFrame s with
  | none => simp
  | some rows =>
    cases hb : firstMinimum none (s.candidates rows) with
    | none =>
      simp only [Option.some.injEq, hb, next_eq_next]
      constructor
      · rintro rfl
        exact ⟨rows, rfl, .inl ⟨hb, rfl⟩⟩
      · rintro ⟨rows', rfl, ⟨-, rfl⟩ | ⟨best', h, -⟩⟩
        · rfl
        · rw [hb] at h
          simp at h
    | some best =>
      simp only [Option.some.injEq, hb, next_eq_next]
      constructor
      · rintro rfl
        exact ⟨rows, rfl, .inr ⟨best, hb, rfl⟩⟩
      · rintro ⟨rows', rfl, ⟨h, -⟩ | ⟨best', h, rfl⟩⟩
        · rw [hb] at h
          simp at h
        · rw [hb] at h
          cases h
          rfl

theorem execMsel_next (s t : State) : exec .msel s = .next t ↔
    (s.config.maskEn = 0 ∧ t = raiseError 0x32 .badmask s) ∨
      (s.config.maskEn ≠ 0 ∧ s.status.plcd = false ∧ t = raiseError 0x32 .sequence s) ∨
      (s.config.maskEn ≠ 0 ∧ s.status.plcd = true ∧ ∃ u, mselBody s = .next u ∧ t = completeOk u) := by
  simp only [exec, execMsel, Instr.opc]
  by_cases hm : s.config.maskEn = 0
  · simp only [hm, if_true, next_eq_next, true_and, ne_eq, not_true, false_and, or_false]
  · rw [if_neg hm]
    cases s.status.plcd
    · simp only [hm, Bool.not_false, if_true, next_eq_next, ne_eq, not_false_eq_true, true_and, false_and, false_or,
        reduceCtorEq, or_false]
    · simp only [hm, Bool.not_true, Bool.false_eq_true, if_false, andThen_completeOk, ne_eq, not_false_eq_true,
        true_and, false_and, false_or, reduceCtorEq]

theorem execFmtinfo_next (lvl : Level) (m : Fin 8) (s t : State) : exec (.fmtinfo lvl m) s = .next t ↔
    t = completeOk { s with bchOut := (formatWord lvl m).setWidth 18 } := by
  simp [exec, execFmtinfo, eq_comm]

theorem execVerinfo_next (v : Nat) (s t : State) : exec (.verinfo v) s = .next t ↔
    ((v < 7 ∨ 40 < v) ∧ t = raiseError 0x41 .badver s) ∨
      ((7 ≤ v ∧ v ≤ 40) ∧ t = completeOk { s with bchOut := versionWord v }) := by
  simp only [exec, execVerinfo, Instr.opc]
  by_cases hv : v < 7 ∨ 40 < v
  · rw [if_pos hv]
    have : ¬ (7 ≤ v ∧ v ≤ 40) := by omega
    simp [hv, this, eq_comm]
  · rw [if_neg hv]
    have : 7 ≤ v ∧ v ≤ 40 := by omega
    simp [hv, this, eq_comm]

theorem encodeBody_next (s t : State) : encodeBody s = .next t ↔
    ∃ u₁ u₂ u₃, eccbldBody s = .next u₁ ∧ frminitBody u₁ = .next u₂ ∧ placeBody u₂ = .next u₃ ∧
      mselBody u₃ = .next t := by
  simp only [encodeBody, andThen_eq_next]
  constructor
  · rintro ⟨u₃, ⟨u₂, ⟨u₁, h1, h2⟩, h3⟩, h4⟩
    exact ⟨u₁, u₂, u₃, h1, h2, h3, h4⟩
  · rintro ⟨u₁, u₂, u₃, h1, h2, h3, h4⟩
    exact ⟨u₃, ⟨u₂, ⟨u₁, h1, h2⟩, h3⟩, h4⟩

theorem execEncode_next (s t : State) : exec .encode s = .next t ↔
    (legalVersion s.version = false ∧ t = raiseError 0x50 .badver s) ∨
      (legalVersion s.version = true ∧ s.config.maskEn = 0 ∧ t = raiseError 0x50 .badmask s) ∨
      (legalVersion s.version = true ∧ s.config.maskEn ≠ 0 ∧ ∃ u, encodeBody s = .next u ∧ t = completeOk u) := by
  simp only [exec, execEncode, Instr.opc]
  cases legalVersion s.version
  · simp only [Bool.not_false, if_true, next_eq_next, true_and, reduceCtorEq, false_and, or_false]
  · by_cases hm : s.config.maskEn = 0
    · simp only [hm, Bool.not_true, Bool.false_eq_true, if_false, if_true, next_eq_next, true_and, reduceCtorEq,
        false_and, ne_eq, not_true, false_or, or_false]
    · simp only [hm, Bool.not_true, Bool.false_eq_true, if_false, andThen_completeOk, true_and, reduceCtorEq,
        false_and, ne_eq, not_false_eq_true, false_or]

end Sys2Proof.Machine
end

