-- ==== Sys2Proof/Laws/Grid.lean ====
section
/-! SUPPORT. Grids by rows: reading the frame, the rows of a symbol, and a symbol's modules. -/

namespace Sys2Proof.Machine

variable {α : Type}

@[simp] theorem gridRows_length (w : Nat) (F : Nat → Nat → α) : (gridRows w F).length = w := by simp [gridRows]

theorem gridRows_getD (w : Nat) (F : Nat → Nat → α) (r : Nat) (hr : r < w) :
    (gridRows w F).getD r [] = (List.range w).map fun c => F r c := by
  simp [gridRows, List.getD_eq_getElem?_getD, hr]

theorem gridRows_getD_getD (w : Nat) (F : Nat → Nat → α) (r c : Nat) (x : α) :
    ((gridRows w F).getD r []).getD c x = if r < w ∧ c < w then F r c else x := by
  by_cases hr : r < w
  · rw [gridRows_getD w F r hr]
    by_cases hc : c < w
    · simp [List.getD_eq_getElem?_getD, hr, hc]
    · simp [List.getD_eq_getElem?_getD, hc]
  · simp [gridRows, List.getD_eq_getElem?_getD, hr]

theorem cellAt_gridRows (w : Nat) (F : Nat → Nat → Cell) (r c : Nat) :
    cellAt (gridRows w F) r c = if r < w ∧ c < w then F r c else emptyCell :=
  gridRows_getD_getD w F r c emptyCell

theorem bitAt_gridRows (w : Nat) (S : Nat → Nat → Bool) (r c : Nat) :
    bitAt (gridRows w S) r c = if r < w ∧ c < w then S r c else false :=
  gridRows_getD_getD w S r c false

/-- A run of cells that are all there reads as their values. -/
theorem readRun_of_cells (m : Memory α) (hm : m.wf = true) (a n : Nat) (f : Nat → α)
    (h : ∀ i < n, m.read (a + i) = some (f i)) : m.readRun a n = some ((List.range n).map f) := by
  rw [Memory.readRun_eq_some_iff m hm]
  refine ⟨by simp, fun i hi => ?_⟩
  rw [h i hi]
  simp [hi]

/-- A frame whose cells are all there is read by rows. -/
theorem readFrame_of_frameIs (s : State) (F : Nat → Nat → Cell) (hw : s.frame.wf = true) (h : s.frameIs F) :
    readFrame s = some (gridRows s.frameWidth F) := by
  rw [readFrame, Memory.readRows_eq_some_iff, gridRows, List.forall₂_map_right_iff, List.forall₂_same]
  intro r hr
  exact readRun_of_cells _ hw _ _ _ fun c hc => h r c (List.mem_range.1 hr) hc

/-- SYM(m) of a frame given by rows, module by module. -/
theorem symRows_gridRows (w : Nat) (lvl : Level) (m : Fin 8) (F : Nat → Nat → Cell) :
    symRows w lvl m (gridRows w F) = gridRows w fun r c => symBit w (formatWord lvl m) m (F r c) r c := by
  simp only [symRows, gridRows]
  refine List.map_congr_left fun r hr => List.map_congr_left fun c hc => ?_
  have := gridRows_getD_getD w F r c emptyCell
  rw [if_pos ⟨List.mem_range.1 hr, List.mem_range.1 hc⟩] at this
  rw [← this]
  rfl

/-- Every format position lies in row 8 or in column 8, so `fmtBitAt` looks at all of them. -/
theorem fmtBitAt_eq_find (w r c : Nat) :
    fmtBitAt w r c = (List.range 15).find? fun k => fmtPos1 k == (r, c) || fmtPos2 w k == (r, c) := by
  rw [fmtBitAt]
  split
  · rfl
  · rename_i h
    symm
    rw [List.find?_eq_none]
    intro k hk
    simp only [Bool.or_eq_true, beq_iff_eq, not_or]
    constructor <;> intro he
    · unfold fmtPos1 at he
      split_ifs at he <;> simp_all
    · unfold fmtPos2 at he
      split_ifs at he <;> simp_all

/-- The columns a traversal visits lie inside a frame of odd width (R283). -/
theorem rightColumns_lt (fuel right : Nat) : ∀ x ∈ rightColumns fuel right, 1 ≤ x ∧ x ≤ right := by
  induction fuel generalizing right with
  | zero => simp [rightColumns]
  | succ fuel ih =>
    rw [rightColumns]
    split_ifs with h1 h6
    · simp
    · simp only [List.mem_cons, forall_eq_or_imp]
      exact ⟨by omega, fun x hx => have := ih _ x hx; by omega⟩
    · simp only [List.mem_cons, forall_eq_or_imp]
      exact ⟨by omega, fun x hx => have := ih _ x hx; by omega⟩

/-- Every cell of a column pair lies in the frame. -/
theorem mem_pairCells_lt (w right : Nat) (hr : right < w) (p : Nat × Nat) (hp : p ∈ pairCells w right) :
    p.1 < w ∧ p.2 < w := by
  simp only [pairCells, List.mem_flatMap, List.mem_range, List.mem_cons, List.not_mem_nil, or_false] at hp
  obtain ⟨vert, hv, h⟩ := hp
  rcases h with rfl | rfl <;> (dsimp only; split_ifs <;> omega)

/-- The traversal of a frame given cell by cell. -/
theorem order_gridRows (w : Nat) (F : Nat → Nat → Cell) :
    order w (gridRows w F) = (rightColumns w (w - 1)).flatMap fun right =>
      (pairCells w right).filter fun p => (F p.1 p.2).kind == .empty := by
  simp only [order, List.flatMap]
  congr 1
  refine List.map_congr_left fun right hr => List.filter_congr fun p hp => ?_
  have hx := rightColumns_lt _ _ right hr
  have := mem_pairCells_lt w right (by omega) p hp
  rw [cellAt_gridRows, if_pos this]

/-- The module-by-module symbol is SYM(m) away from the format positions (R320, R322). -/
theorem symBit_of_not_format (w : Nat) (fmt : BitVec 15) (m : Fin 8) (cell : Cell) (r c : Nat)
    (h : ¬ formatPosition w r c) : symBit w fmt m cell r c =
      if cell.kind = .data ∧ maskFn m r c = true then !cell.bit else cell.bit := by
  have hn : fmtBitAt w r c = none := by
    rw [fmtBitAt_eq_find, List.find?_eq_none]
    intro k hk hf
    simp only [Bool.or_eq_true, beq_iff_eq] at hf
    exact h ⟨k, by have := List.mem_range.1 hk; omega, hf⟩
  rw [symBit, hn]
  have hk : (cell.kind == Kind.data) = decide (cell.kind = .data) := rfl
  by_cases hd : cell.kind = .data <;> by_cases hm : maskFn m r c = true <;> simp [hk, hd, hm]

end Sys2Proof.Machine
end

