-- ==== Sys2Proof/Laws/PerInstr.lean ====
section
/-! SUPPORT. What holds of every command as syntax, one lemma per constructor. -/

namespace Sys2Proof.Laws.EncodeOpcode

/-- A well-formed command's word carries its opcode in bits [7:0] (spec/30 R141). -/
def Statement (i : Instr) : Prop := i.wellFormed = true → opcField (encode i) = i.opc

theorem nop : Statement .nop := fun _ => rfl
theorem srst : Statement .srst := fun _ => rfl
theorem rsenc (k nr : Nat) : Statement (.rsenc k nr) := by
  intro _
  apply BitVec.eq_of_getLsbD_eq
  intro i hi
  simp only [opcField, encode, Instr.opc, BitVec.getLsbD_extractLsb', BitVec.getLsbD_or, BitVec.getLsbD_shiftLeft]
  interval_cases i <;> simp
theorem eccbld : Statement .eccbld := fun _ => rfl
theorem frminit : Statement .frminit := fun _ => rfl
theorem place : Statement .place := fun _ => rfl
theorem mapply (m : Fin 8) : Statement (.mapply m) := fun _ => by revert m; decide
theorem meval (m : Fin 8) : Statement (.meval m) := fun _ => by revert m; decide
theorem msel : Statement .msel := fun _ => rfl
theorem fmtinfo (lvl : Level) (m : Fin 8) : Statement (.fmtinfo lvl m) := fun _ => by
  cases lvl <;> revert m <;> decide
theorem verinfo (v : Nat) : Statement (.verinfo v) := by
  intro _
  apply BitVec.eq_of_getLsbD_eq
  intro i hi
  simp only [opcField, encode, Instr.opc, BitVec.getLsbD_extractLsb', BitVec.getLsbD_or, BitVec.getLsbD_shiftLeft]
  interval_cases i <;> simp
theorem encode : Statement .encode := fun _ => rfl

end Sys2Proof.Laws.EncodeOpcode
end

