-- ==== Sys2Proof/Laws/ReedSolomon.lean ====
section
/-! SUPPORT. The lengths of the Reed-Solomon encoder's lists. -/

namespace Sys2Proof.Machine

@[simp] theorem genPoly_length (n : Nat) : (genPoly n).length = n + 1 := by
  induction n with
  | zero => rfl
  | succ n ih => simp [genPoly, ih]

theorem lfsrStep_length (taps r : List Byte) (d : Byte) (h : r.length = taps.length) :
    (lfsrStep taps r d).length = taps.length := by
  simp only [lfsrStep, List.length_zipWith, List.length_append, List.length_tail, List.length_singleton]
  omega

/-- RSPARITY(d, n) has n codewords. -/
@[simp] theorem rsParity_length (d : List Byte) (n : Nat) : (rsParity d n).length = n := by
  have h : ∀ (taps r : List Byte), r.length = taps.length → (d.foldl (lfsrStep taps) r).length = taps.length := by
    intro taps
    induction d with
    | nil => intro r hr; exact hr
    | cons x d ih => intro r hr; exact ih _ (lfsrStep_length taps r x hr)
  rw [rsParity, h]
  · simp
  · simp

theorem cutBlocks_length (ns : List Nat) (d : List Byte) : (cutBlocks ns d).length = ns.length := by
  induction ns generalizing d with
  | nil => rfl
  | cons n ns ih => simp [cutBlocks, ih]

@[simp] theorem blocks_lengths_length (b : Blocks) : b.lengths.length = b.n1 + b.n2 := by simp [Blocks.lengths]

@[simp] theorem blocks_lengths_sum (b : Blocks) : b.lengths.sum = b.dataCodewords := by
  simp [Blocks.lengths, Blocks.dataCodewords]

end Sys2Proof.Machine
end

