-- ==== Sys2Proof/Tests/Slice0.lean ====
section
/-! SUPPORT. Tests with results written out from the spec (30 R143–R149, 95), and for every statement with hypotheses a
witness that meets them. -/

namespace Sys2Proof.Tests

open Sys2Proof.Machine

/-! What is not well formed is refused (R147). -/

theorem test_rsenc_k_too_wide : (Instr.rsenc 256 0).wellFormed = false := by decide
theorem test_rsenc_nr_too_wide : (Instr.rsenc 0 256).wellFormed = false := by decide
theorem test_verinfo_too_wide : (Instr.verinfo 64).wellFormed = false := by decide
theorem test_rsenc_widest_is_well_formed : (Instr.rsenc 255 255).wellFormed = true := by decide
theorem test_verinfo_widest_is_well_formed : (Instr.verinfo 63).wellFormed = true := by decide

/-! Words written out from the formats of R141: opcode in the low byte, operands above it. -/

theorem test_decode_nop : decode 0b00000000000000000000000000000000 = .ok .nop := by decide
theorem test_decode_srst : decode 0b00000000000000000000000000000001 = .ok .srst := by decide
theorem test_decode_rsenc : decode 0b00000000000010100001000000010000 = .ok (.rsenc 16 10) := by decide
theorem test_decode_rsenc_widest_nr : decode 0x00FF0110 = .ok (.rsenc 1 255) := by decide
theorem test_decode_eccbld : decode 0b00000000000000000000000000010001 = .ok .eccbld := by decide
theorem test_decode_frminit : decode 0b00000000000000000000000000100000 = .ok .frminit := by decide
theorem test_decode_place : decode 0b00000000000000000000000000100001 = .ok .place := by decide
theorem test_decode_mapply : decode 0b00000000000000000000011100110000 = .ok (.mapply 7) := by decide
theorem test_decode_meval : decode 0b00000000000000000000010100110001 = .ok (.meval 5) := by decide
theorem test_decode_msel : decode 0b00000000000000000000000000110010 = .ok .msel := by decide
theorem test_decode_fmtinfo : decode 0b00000000000000000000101001000000 = .ok (.fmtinfo .m 2) := by decide
theorem test_decode_fmtinfo_highest : decode 0x00001F40 = .ok (.fmtinfo .h 7) := by decide
theorem test_decode_verinfo : decode 0b00000000000000000010100001000001 = .ok (.verinfo 40) := by decide
theorem test_decode_encode : decode 0b00000000000000000000000001010000 = .ok .encode := by decide

/-- The illegal words of 95, section 2.1. -/
theorem test_reserved_bits_are_illegal :
    ([0x01000010, 0x00000111, 0x00000830, 0x00002040, 0x00004041] : List Word).map decode =
      List.replicate 5 (.error .reservedBits) := by decide

theorem test_unassigned_opcodes_are_illegal :
    ([0x00000002, 0x00000012, 0x00000033, 0x00000042, 0x00000051, 0x000000FF] : List Word).map decode =
      List.replicate 6 (.error .unassignedOpcode) := by decide

theorem test_encode_fmtinfo : Sys2Proof.encode (.fmtinfo .q 5) = 0x00001540 := by decide

/-! One step on small states. -/

/-- What a step or a meaning leaves, seen through f; none where it stops. -/
def seen {α : Type} (f : State → α) (o : Result) : Option α :=
  match o with
  | .next t => some (f t)
  | _ => none

/-- Reset, with a version, a level and DBUF[0..]. -/
def job (v : BitVec 6) (lvl : Level) (d : List Byte) : State :=
  { State.reset with config := ⟨v, lvl, 0xFF, false⟩, dbuf := Memory.ofRun 0 d }

/-- The STATUS word a host reads while BUSY = 0. -/
def statusOf (s : State) : Word := statusWord s.busy s.status

/-- The data codewords of the textbook symbol (V1). -/
def textbook : List Byte :=
  [0x10, 0x20, 0x0C, 0x56, 0x61, 0x80, 0xEC, 0x11, 0xEC, 0x11, 0xEC, 0x11, 0xEC, 0x11, 0xEC, 0x11]

/-- 3.10: NOP with IE = 1. -/
theorem test_nop_raises_irq :
    seen (fun t => (statusOf t, t.irq)) (exec .nop { State.reset with config := ⟨0, .l, 0xFF, true⟩ }) =
      some (0x02, true) := by decide

/-- R371's example. -/
theorem test_srst_resets_config :
    seen (fun t => (t.config.word, statusOf t, t.lastCmd)) (exec .srst { State.reset with
      config := ⟨1, .m, 0xFF, true⟩, lastCmd := 1, inflight := some 1 }) = some (0x00FF0000, 0, 0) := by decide

/-- 3.2: 01 02 03 04 with NR = 4. -/
theorem test_rsenc_parity :
    seen (fun t => t.pbuf.readRun 0 4) (exec (.rsenc 4 4) (job 0 .l [0x01, 0x02, 0x03, 0x04])) =
      some (some [0x75, 0xA3, 0xB2, 0x60]) := by decide +kernel

/-- 3.2: s = 4090, K = 7 reads past DBUF. -/
theorem test_rsenc_past_the_buffer :
    seen (fun t => t.errinfo.word) (exec (.rsenc 7 2) { State.reset with rsSrc := 4090 }) = some 0x00001003 := by decide

/-- V7: version 5-Q, the last data round and the first parity. -/
theorem test_eccbld_last_data_round :
    seen (fun t => (t.seq.readRun 56 8, t.seqLen.word))
      (exec .eccbld (job 5 .q ((List.range 62).map (BitVec.ofNat 8)))) =
      some (some [0x0E, 0x1D, 0x2C, 0x3C, 0x2D, 0x3D, 0x82, 0x55], 0x003E0086) := by decide +kernel

/-- 3.3: version 41. -/
theorem test_eccbld_bad_version :
    seen (fun t => t.errinfo.word) (exec .eccbld (job 41 .m [])) = some 0x00001102 := by decide

/-- 3.5: cells of versions 1, 2 and 7, as bytes. -/
theorem test_frame_cells :
    [(1, 0, 0), (1, 1, 1), (1, 8, 8), (1, 8, 6), (1, 6, 9), (1, 13, 8), (1, 9, 0), (2, 18, 18), (2, 17, 17), (2, 19, 20),
      (7, 0, 34), (7, 0, 36), (7, 36, 0), (7, 5, 36), (7, 22, 6), (7, 38, 6)].map
        (fun p : Nat × Nat × Nat => (drawnCell p.1 p.2.1 p.2.2).byte) =
      [0x05, 0x04, 0x06, 0x05, 0x04, 0x05, 0x00, 0x05, 0x04, 0x05, 0x06, 0x07, 0x07, 0x06, 0x05, 0x05] := by
  decide +kernel

/-- R281: the flags and JOB after FRMINIT; the cell (0, 36) of version 7 as the host reads it. -/
theorem test_frminit_byte :
    seen (fun t => (statusOf t, t.job.word, t.byteAt 0x10024)) (exec .frminit (job 7 .m [])) =
      some (0x22, 0x00070000, some 0x07) := by decide +kernel

/-- 3.6: where the traversal of version 1 goes. -/
theorem test_traversal_of_version_1 :
    (let cells := order 21 (gridRows 21 (drawnCell 1))
     (cells.length, [0, 1, 2, 3, 22, 23, 24, 25, 26, 27, 184, 207].map fun n => cells.getD n (0, 0))) =
      (208, [(20, 20), (20, 19), (19, 20), (19, 19), (9, 20), (9, 19), (9, 18), (9, 17), (10, 18), (10, 17), (9, 5),
        (12, 0)]) := by decide +kernel

/-- 3.6: PLACE after reset. -/
theorem test_place_after_reset :
    seen (fun t => t.errinfo.word) (exec .place State.reset) = some 0x00002104 := by decide

/-- 3.9: MAPPLY with PLCD = 0. -/
theorem test_mapply_unplaced :
    seen (fun t => t.errinfo.word) (exec (.mapply 0) State.reset) = some 0x00003004 := by decide

/-- R320, R321, R322, 3.9: mask 0 inverts the DATA cell (12, 0) and not (12, 1); the dark module stays; (7, 8) shows bit
6 of the format word, 0 in FMT(M, 0) and 1 in FMT(M, 2). -/
theorem test_symbol_bit_is_masked :
    [symBit 21 (formatWord .m 0) 0 ⟨.data, true⟩ 12 0, symBit 21 (formatWord .m 0) 0 ⟨.data, true⟩ 12 1,
      symBit 21 (formatWord .m 0) 0 ⟨.func, true⟩ 13 8, symBit 21 (formatWord .m 0) 0 ⟨.rsvd, false⟩ 7 8,
      symBit 21 (formatWord .m 2) 2 ⟨.rsvd, false⟩ 7 8] = [false, true, true, false, true] := by decide +kernel

/-- 3.8: whole matrices, (N1, N2, N3, N4). -/
theorem test_penalty_terms :
    (let terms := fun S => (penaltyN1 21 S, penaltyN2 S, penaltyN3 21 S, penaltyN4 21 S)
     [terms (gridRows 21 fun _ _ => false), terms (gridRows 21 fun r _ => decide (r < 10))]) =
      [(798, 1200, 0, 100), (756, 1140, 0, 0)] := by decide +kernel

/-- 3.8: the N3 points of whole lines: a margin on both sides, of exactly 4, none, two at the edges. -/
theorem test_finder_like_lines :
    (["101110100001010101010", "000010111010000101010", "010111010101010101010", "101110101010101011101",
      "110011111100111010101"].map fun l => n3Line (l.toList.map fun ch => ch == '1')) = [40, 40, 0, 80, 0] := by
  decide +kernel

/-- 3.9: MEVAL with PLCD = 0. -/
theorem test_meval_unplaced :
    seen (fun t => t.errinfo.word) (exec (.meval 0) State.reset) = some 0x00003104 := by decide

/-- V6, 3.9: ties go to the lowest mask id. -/
theorem test_msel_tie :
    firstMinimum none (maskIds.zip [1087, 1053, 1028, 1008, 1008, 1066, 1020, 1077]) = some (3, 1008) := by decide

/-- P4: BADMASK before SEQUENCE. -/
theorem test_msel_without_candidates :
    seen (fun t => t.errinfo.word) (exec .msel { State.reset with config := ⟨1, .m, 0, false⟩ }) =
      some 0x00003205 := by decide

/-- 3.4. -/
theorem test_fmtinfo_words :
    [Instr.fmtinfo .l 0, .fmtinfo .m 0, .fmtinfo .q 5, .fmtinfo .h 7].map
      (fun i => seen (fun t => bchOutWord t.bchOut) (exec i State.reset)) =
      [some 0x77C4, some 0x5412, some 0x2183, some 0x083B] := by decide +kernel

/-- 3.4. -/
theorem test_verinfo_words :
    [Instr.verinfo 7, .verinfo 21, .verinfo 40, .verinfo 6, .verinfo 41].map
      (fun i => seen (fun t => (bchOutWord t.bchOut, t.errinfo.word)) (exec i State.reset)) =
      [some (0x07C94, 0), some (0x15683, 0), some (0x28C69, 0), some (0, 0x4102), some (0, 0x4102)] := by decide +kernel

/-- P4: ENCODE reports BADMASK, and BADVER before it. -/
theorem test_encode_errors :
    [job 1 .m [], job 0 .m []].map (fun s => seen (fun t => t.errinfo.word)
      (exec .encode { s with config := { s.config with maskEn := 0 } })) = [some 0x5005, some 0x5002] := by decide

/-- 2.2: host reads of the tables, and of FRAME beyond column 176. -/
theorem test_host_reads :
    [((Width.word, (0x03100 : Addr)), (0x08040201 : Word)), ((.half, 0x03102), 0x0804), ((.byte, 0x031FF), 0),
      ((.word, 0x03200), 0x190100FF), ((.byte, 0x100B1), 0)].map
      (fun p => seen State.response (hostRead p.1.1 p.1.2 State.reset) == some (.data p.2)) =
      [true, true, true, true, true] := by decide +kernel

/-- P3: `CFG 1, M` is W32 0x00004, 0x00FF0101. -/
theorem test_cfg_default : cfgDefaultEvents 1 .m = [.write .word 0x00004 0x00FF0101] := by decide

/-- 3.11: a write to CMD with an error pending is discarded, and STATUS reads 0x0E. -/
theorem test_discarded_command :
    seen statusOf (hostWrite .word 0x00008 1 (raiseError 0x41 .badver State.reset)) = some 0x0E := by decide

/-- A step of a placed command, and one through the host's write and the engine's turn. -/
theorem test_step_runs_the_placed_word :
    seen (fun t => (bchOutWord t.bchOut, t.lastCmd)) (step (State.reset.withFetchWord 32 0x00000A40)) =
      some (0x5E7C, 0x0A40) := by decide +kernel

/-! Witnesses: for every statement with hypotheses, a state and operands that meet them all. -/

/-- A command in flight, no error pending. -/
def busyWith (x : Word) : State := { State.reset with lastCmd := x, inflight := some x }

theorem witness_DecodeOfEncodeIsTheCommand :
    ∃ i : Instr, i.wellFormed = true ∧ i = .rsenc 255 255 := ⟨_, by decide, rfl⟩

theorem witness_EncodeOfDecodeIsTheWord : decode 0x00003F41 = .ok (.verinfo 63) := by decide

theorem witness_DecodeFollowsTheOpcodeMap :
    (∀ row ∈ opcodeMap, (0x00000002 : Word) &&& row.mask ≠ row.pattern) ∧
    (∃ r ∈ opcodeMap, (0x00000741 : Word) &&& r.mask = r.pattern) := by decide

theorem witness_IllegalWordsCompleteWithIllegal :
    (busyWith 0x00004041).agenda = [] ∧ (busyWith 0x00004041).inflight = some 0x00004041 ∧
    decode 0x00004041 = .error .reservedBits ∧ (255 : Nat) ≤ 255 ∧ (63 : Nat) ≤ 63 := by decide

theorem witness_StepRunsTheDecodedCommand :
    (∃ s : State, s.inflight = some 0x00000050 ∧ decode 0x00000050 = .ok .encode ∧ s.agenda = [.engine]) ∧
    (∃ s : State, s.inflight = some 0x00000050 ∧ s.agenda = []) ∧
    (decode (BitVec.ofNat 32 0x00000050) = .ok .encode ∧ 0x00000050 < 2 ^ 32) ∧
    ∃ s : State, s.agenda = [] ∧ s.inflight = none :=
  ⟨⟨{ busyWith 0x00000050 with agenda := [.engine] }, by decide⟩, ⟨busyWith 0x00000050, by decide⟩, by decide,
    ⟨State.reset, by decide⟩⟩

theorem witness_CmdWriteIsAcceptedOrDiscarded :
    State.reset.resetPin = false ∧ State.reset.inflight = none ∧ State.reset.status.err = false ∧
    (busyWith 0).resetPin = false ∧ (busyWith 0).inflight ≠ none := by decide

theorem witness_CompletionSetsDoneAndRecordsErrors :
    exec .nop (busyWith 0) = .next (completeOk (busyWith 0)) ∧
    exec .place (busyWith 0x21) = .next (raiseError 0x21 .sequence (busyWith 0x21)) := ⟨rfl, rfl⟩

theorem witness_ErrorsOnlyRecordThemselves :
    exec .place (busyWith 0x21) = .next (raiseError 0x21 .sequence (busyWith 0x21)) ∧
    (busyWith 0x21).status.err = false ∧ (raiseError 0x21 .sequence (busyWith 0x21)).status.err = true :=
  ⟨rfl, rfl, rfl⟩

theorem witness_CommandErrorsAndTheirPriority :
    (∃ s : State, s.rsSrc.toNat + 7 = 4097) ∧ (255 : Nat) < 200 + 56 ∧ (6 : Nat) < 7 ∧ (40 : Nat) < 41 ∧
    State.reset.version = 0 ∧ (job 41 .m []).version = 41 ∧ State.reset.status.seqv = false ∧
    (∃ s : State, s.status.seqv = true ∧ s.status.frmv = true ∧ s.status.plcd = false ∧ s.job.seqVer ≠ s.job.frmVer) ∧
    State.reset.status.plcd = false ∧ State.reset.config.maskEn ≠ 0 ∧
    (∃ s : State, s.config.maskEn = 0 ∧ s.version = 1) ∧ ∃ s : State, s.config.maskEn = 0 ∧ s.version = 40 :=
  ⟨⟨{ State.reset with rsSrc := 4090 }, by decide⟩, by decide, by decide, by decide, by decide, by decide, by decide,
    ⟨{ State.reset with
      status := { State.reset.status with seqv := true, frmv := true }, job := ⟨1, .m, 2, .l⟩ }, by decide⟩,
    by decide, by decide, ⟨{ State.reset with config := ⟨1, .l, 0, false⟩ }, by decide⟩,
    ⟨{ State.reset with config := ⟨40, .l, 0, false⟩ }, by decide⟩⟩

theorem witness_StatusWriteClearsWrittenBits :
    (raiseError 0x21 .sequence State.reset).resetPin = false ∧ (busyWith 0).resetPin = false := by decide

/-- A NOP that is about to complete, and IE = 1. -/
def nopWithIrq : State := { busyWith 0 with config := ⟨0, .l, 0xFF, true⟩ }

/-- DONE = 1, and the host's write of IE = 1 next. -/
def enableNext : State :=
  { State.reset with status := { State.reset.status with done := true }, agenda := [.write .word 0x00004 0x01FF0000] }

theorem witness_IrqRisesOnlyOnCompletionOrEnable :
    (step nopWithIrq = .next (completeOk nopWithIrq) ∧ nopWithIrq.irq = false ∧ (completeOk nopWithIrq).irq = true) ∧
    seen State.irq (step enableNext) = some true ∧ enableNext.irq = false := ⟨⟨rfl, rfl, rfl⟩, by decide⟩

theorem witness_InputWritesWhileBusyAreDiscarded :
    (busyWith 0).resetPin = false ∧ (busyWith 0).busy = true ∧
    (∀ p ∈ [(Width.byte, (0x01FFF : Addr)), (.half, 0x01FFE), (.word, 0x01FFC), (.byte, 0x01000)],
      p.2.toNat % p.1.bytes = 0 ∧ 0x01000 ≤ p.2.toNat ∧ p.2.toNat < 0x02000) := by decide

theorem witness_HostAccessesDoNotDisturbTheCommand :
    (busyWith 0).busy = true ∧ (busyWith 0).StatusConsistent ∧
    seen State.inflight (perform (.read .word 0x00000) (busyWith 0)) = some (some 0) ∧
    seen (fun t => t.status.ovr) (perform (.write .word 0x00008 1) (busyWith 0)) = some true :=
  ⟨by decide, ⟨by decide, by decide, by decide, by decide⟩, by decide, by decide⟩

theorem witness_ReadsWhileBusy :
    (busyWith 0).resetPin = false ∧ (busyWith 0).busy = true ∧
    (∃ s : State, s.resetPin = false ∧ s.busy = true ∧ s.dbuf.read 4095 = some 0xEC) ∧
    (∀ a ∈ [0x00018, 0x00024, 0x00040, 0x0005C], (BitVec.ofNat 18 a).toNat = a ∧ a % 4 = 0 ∧
      ((0x00018 ≤ a ∧ a ≤ 0x00024) ∨ (0x00040 ≤ a ∧ a < 0x00060))) ∧
    (∀ p ∈ [(Width.word, (0x02000 : Addr)), (.half, 0x030FE), (.byte, 0x1B0FF), (.word, 0x2B0FC)],
      p.2.toNat % p.1.bytes = 0 ∧ ((0x02000 ≤ p.2.toNat ∧ p.2.toNat < 0x03100) ∨
        (0x10000 ≤ p.2.toNat ∧ p.2.toNat < 0x1B100) ∨ (0x20000 ≤ p.2.toNat ∧ p.2.toNat < 0x2B100))) :=
  ⟨by decide, by decide, ⟨{ busyWith 0 with dbuf := [(4095, 0xEC)] }, by decide⟩, by decide +kernel, by decide +kernel⟩

theorem witness_ResetInputAndSrstReset : ∃ s : State, s.resetPin = true :=
  ⟨{ State.reset with resetPin := true }, rfl⟩

theorem witness_ConfigAndSourceWritesStoreTheirFields :
    State.reset.resetPin = false ∧ State.reset.busy = false := by decide

theorem witness_ValidFlagsChangeOnlyAsListed :
    exec .frminit (job 40 .h []) = .next (completeOk { job 40 .h [] with
      frame := frameImage 40
      status := { State.reset.status with frmv := true }
      job := ⟨0, .l, 40, .l⟩ }) ∧ (job 40 .h []).status.err = false := ⟨rfl, rfl⟩

/-- A step for each way the flags may go: an access, a command's turn, the reset input. -/
theorem witness_ValidFlagsChangeOnlyAsListed_steps :
    seen (fun t => t.status.done) (step { State.reset with agenda := [.read .word 0x00000] }) = some false ∧
    (decode 0x00000000 = .ok .nop ∧ step (busyWith 0) = .next (completeOk (busyWith 0))) ∧
    seen (fun t => t.status.frmv) (step { State.reset with
      agenda := [.resetInput true], status := { State.reset.status with frmv := true } }) = some false :=
  ⟨by decide, ⟨by decide, rfl⟩, by decide⟩

theorem witness_StepKeepsMemoryCanonical :
    (job 1 .m textbook).memoryWf = true ∧ step (job 1 .m textbook) = .next (job 1 .m textbook) := ⟨by decide, rfl⟩

theorem witness_StepKeepsStatusConsistent :
    (busyWith 0).StatusConsistent ∧ step (busyWith 0) = .next (completeOk (busyWith 0)) :=
  ⟨⟨by decide, by decide, by decide, by decide⟩, rfl⟩

/-- A state other than the reset state that meets the invariant. -/
theorem inv_busyWith : (busyWith 0).Inv where
  memoryWf := by decide
  inBounds := by decide
  status := ⟨by decide, by decide, by decide, by decide⟩
  held := fun h => absurd h (by decide)
  flags := ⟨fun h => absurd h (by decide), fun h => absurd h (by decide), by decide, fun h => absurd h (by decide)⟩
  penalties := by unfold State.penaltiesBounded; decide

theorem witness_StepKeepsTheInvariant : (busyWith 0).Inv ∧ step (busyWith 0) = .next (completeOk (busyWith 0)) :=
  ⟨inv_busyWith, rfl⟩

theorem witness_InternalIsUnreachable : (busyWith 0).Inv := inv_busyWith

theorem witness_ReadsHaveNoSideEffects :
    seen State.response (perform (.read .byte 0x031FF) State.reset) = some (.data 0) := by decide +kernel

theorem witness_BufferReadsAreLittleEndian :
    (job 1 .m textbook).resetPin = false ∧ (job 1 .m textbook).busy = false ∧
    (∀ p ∈ [(Width.word, 0x0100C), (.half, 0x0100E), (.byte, 0x0100F), (.word, 0x032FC)],
      (BitVec.ofNat 18 p.2).toNat = p.2 ∧ p.2 % p.1.bytes = 0 ∧ 0x01000 ≤ p.2 ∧ p.2 < 0x03300 ∧
      ∀ j, j < p.1.bytes → (job 1 .m textbook).byteAt (p.2 + j) ≠ none) ∧
    (∀ p ∈ [(Width.word, 0x01010), (.byte, 0x01FFF), (.byte, 0x02FFF), (.half, 0x030FE)],
      p.2 % p.1.bytes = 0 ∧ ∃ j, j < p.1.bytes ∧ (job 1 .m textbook).byteAt (p.2 + j) = none) ∧
    ((job 1 .m textbook).byteAt 0x1B0B0 = none ∧ (job 1 .m textbook).byteAt 0x2B0B0 = none) := by
  refine ⟨by decide, by decide, by decide +kernel, ?_, by decide +kernel⟩
  simp only [List.mem_cons, List.not_mem_nil, or_false, forall_eq_or_imp, forall_eq]
  exact ⟨⟨by decide, 0, by decide, by decide +kernel⟩, ⟨by decide, 0, by decide, by decide +kernel⟩,
    ⟨by decide, 0, by decide, by decide +kernel⟩, ⟨by decide, 0, by decide, by decide +kernel⟩⟩

theorem witness_DbufWriteStoresItsBytes :
    State.reset.resetPin = false ∧ State.reset.busy = false ∧ State.reset.memoryWf = true ∧
    ∀ p ∈ [(Width.byte, 4095), (.half, 4094), (.word, 4092), (.word, 0)], p.2 % p.1.bytes = 0 ∧ p.2 < 4096 := by decide

theorem witness_VerinfoWritesTheVersionWord : (7 : Nat) ≤ 7 ∧ (7 : Nat) ≤ 40 ∧ (40 : Nat) ≤ 40 := by decide

theorem witness_GaloisProductIsTheFieldProduct : (0x53 : Byte) ≠ 0x00 ∧ (0xCA : Byte) ≠ 0x00 := by decide

theorem witness_ParityMakesACodeword : (0 : Nat) < 1 ∧ (9 : Nat) < 10 := by decide

theorem witness_RsencWritesTheParity :
    (job 1 .m textbook).memoryWf = true ∧ 1 + 254 ≤ 255 ∧ 16 + 10 ≤ 255 ∧
    (job 1 .m textbook).rsSrc.toNat + 16 ≤ 4096 ∧ textbook.length = 16 ∧
    (∀ i, i < 16 → (job 1 .m textbook).dbuf.read ((job 1 .m textbook).rsSrc.toNat + i) = textbook[i]?) ∧
    ∃ s : State, s.memoryWf = true ∧ s.rsSrc.toNat + 1 = 4096 ∧ s.dbuf.read (s.rsSrc.toNat + 0) = [(0x01 : Byte)][0]? :=
  ⟨by decide, by decide, by decide, by decide, by decide, by decide,
    ⟨{ State.reset with rsSrc := 4095, dbuf := [(4095, 0x01)] }, by decide⟩⟩

theorem witness_UnwrittenDataStopsTheEncoders :
    State.reset.memoryWf = true ∧ State.reset.rsSrc.toNat + 1 ≤ 4096 ∧ State.reset.dbuf.read (0 + 0) = none ∧
    (job 1 .h [0x01]).version = 1 ∧ 1 < dataCodewords 1 .h ∧ (job 1 .h [0x01]).dbuf.read 1 = none ∧
    (job 1 .h [0x01]).config.maskEn ≠ 0 ∧ (job 1 .h [0x01]).memoryWf = true := by decide

theorem witness_EccbldWritesTheInterleavedBlocks :
    (job 1 .m textbook).memoryWf = true ∧ (job 1 .m textbook).version = 1 ∧
    textbook.length = dataCodewords (job 1 .m textbook).version (job 1 .m textbook).config.level ∧
    ∀ i, i < 16 → (job 1 .m textbook).dbuf.read i = textbook[i]? := by decide

theorem witness_FrminitWritesTheWholeFrame : (job 1 .m []).version = 1 ∧ (job 40 .h []).version = 40 := by decide

theorem witness_EmptyCellsMatchTheBits :
    exec .frminit (job 40 .h []) = .next (completeOk { job 40 .h [] with
      frame := frameImage 40
      status := { State.reset.status with frmv := true }
      job := ⟨0, .l, 40, .l⟩ }) ∧ (job 40 .h []).version = 40 := ⟨rfl, rfl⟩

theorem witness_BlockTableIsConsistent : (1 : Nat) ≤ 1 ∧ (39 : Nat) < 40 ∧ (40 : Nat) ≤ 40 := by decide

theorem witness_ExpAndLogTablesAreInverse : (253 : Nat) < 254 ∧ (254 : Nat) < 255 ∧ (0xFF : Byte) ≠ 0x00 := by decide

theorem witness_FindersAndSeparatorsAreDrawn :
    (job 40 .h []).version = 40 ∧ (170, 0) ∈ [(0, 0), (0, symbolWidth 40 - 7), (symbolWidth 40 - 7, 0)] := by decide

theorem witness_TimingAndDarkModuleAreDrawn :
    (job 1 .h []).version = 1 ∧ 8 ≤ 12 ∧ 12 ≤ symbolWidth 1 - 9 := by decide

theorem witness_AlignmentPatternsAreDrawn :
    (job 7 .h []).version = 7 ∧ 6 ∈ alignCentres 7 ∧ 22 ∈ alignCentres 7 ∧
    ((6, 22) : Nat × Nat) ≠ (6, 6) ∧ (6, 22) ≠ (6, symbolWidth 7 - 7) ∧ (6, 22) ≠ (symbolWidth 7 - 7, 6) := by decide

theorem witness_FormatAndVersionAreasAreReserved :
    (job 6 .h []).version = 6 ∧ (job 7 .h []).version = 7 ∧ (14 : Nat) ≤ 14 ∧ (17 : Nat) ≤ 17 := by decide

theorem witness_TraversalIsTheZigZag : (1 : Nat) ≤ 40 ∧ 20 < symbolWidth 1 ∧
    (cellAt (gridRows 21 fun _ _ => emptyCell) 20 20).kind = .empty := by decide +kernel

theorem witness_PlacedBitsAreMsbFirst :
    (textbook : List Byte)[15]? = some 0x11 ∧ (7 : Nat) < 8 ∧ 6 < remainderBits 2 := by decide

/-- FRAME holds F as version 1, SEQ holds q, and F is placed or not. -/
def framed (F : Nat → Nat → Cell) (q : List Byte) (placed : Bool) : State :=
  { State.reset with
    seq := Memory.ofRun 0 q
    frame := Memory.ofGrid F
    job := ⟨1, .m, 1, .m⟩
    status := { State.reset.status with seqv := true, frmv := true, plcd := placed } }

theorem framed_frameIs (F : Nat → Nat → Cell) (q : List Byte) (placed : Bool) : (framed F q placed).frameIs F :=
  fun r c hr hc => Memory.read_ofGrid_cell F r c (Nat.lt_of_lt_of_le hr (by decide : 21 ≤ 177))
    (Nat.lt_of_lt_of_le hc (by decide : 21 ≤ 177))

theorem framed_memoryWf (F : Nat → Nat → Cell) (q : List Byte) (placed : Bool) :
    (framed F q placed).memoryWf = true := by
  simp only [State.memoryWf, framed, Memory.wf_ofGrid, Memory.wf_ofRun, Bool.and_true]
  decide

/-- As many codewords as version 1 has. -/
def zeros : List Byte := List.replicate 26 0x00

theorem zeros_read (F : Nat → Nat → Cell) (placed : Bool) (i : Nat) : (framed F zeros placed).seq.read i = zeros[i]? := by
  show (Memory.ofRun 0 zeros).read i = _
  rw [Memory.read_ofRun]
  simp

theorem witness_PlaceWritesTheBitsInOrder :
    ∃ (s : State) (F : Nat → Nat → Cell) (q : List Byte), s.memoryWf = true ∧
      s.status.seqv = true ∧ s.status.frmv = true ∧ s.status.plcd = false ∧ s.job.seqVer = s.job.frmVer ∧
      s.frameVersion = 1 ∧ s.frameIs F ∧ q.length = totalCodewords s.frameVersion ∧
      (∀ i, i < q.length → s.seq.read i = q[i]?) ∧
      (order s.frameWidth (gridRows s.frameWidth F)).length =
        8 * totalCodewords s.frameVersion + remainderBits s.frameVersion :=
  ⟨framed (drawnCell 1) zeros false, drawnCell 1, zeros, framed_memoryWf _ _ _, rfl, rfl, rfl, rfl, rfl,
    framed_frameIs _ _ _, rfl, fun i _ => zeros_read _ _ i, by
      show (order 21 (gridRows 21 (drawnCell 1))).length = 208
      decide +kernel⟩

theorem witness_PenaltyIsBounded : (177 : Nat) ≤ 177 ∧ (0 : Nat) ≤ 177 := by decide

theorem witness_VersionOneFrameIsAsPrinted : (20 : Nat) < 21 ∧ (job 1 .m []).version = 1 := by decide

/-- A frame of DATA cells. -/
def dataFrame (_ _ : Nat) : Cell := ⟨.data, true⟩

theorem witness_MapplyShowsTheMaskedSymbol :
    ∃ (s : State) (F : Nat → Nat → Cell), s.memoryWf = true ∧ s.status.plcd = true ∧ s.frameVersion = 1 ∧ s.frameIs F :=
  ⟨framed dataFrame zeros true, dataFrame, framed_memoryWf _ _ _, rfl, rfl, framed_frameIs _ _ _⟩

/-- SYM(m) of the frame of DATA cells. -/
def dataSymbol (m : Fin 8) (r c : Nat) : Bool := symBit 21 (formatWord .m m) m (dataFrame r c) r c

theorem dataSymbol_isSymbol (m : Fin 8) : isSymbol 21 .m m dataFrame (dataSymbol m) := by
  refine ⟨fun k hk => ?_, fun r c _ _ h => symBit_of_not_format _ _ _ _ _ _ h⟩
  have key : ∀ m : Fin 8, ∀ k ≤ 14, dataSymbol m (fmtPos1 k).1 (fmtPos1 k).2 = (formatWord .m m).getLsbD k ∧
      dataSymbol m (fmtPos2 21 k).1 (fmtPos2 21 k).2 = (formatWord .m m).getLsbD k := by decide +kernel
  exact key m k hk

theorem witness_MevalScoresTheMaskedSymbol :
    ∃ (s : State) (m : Fin 8) (F : Nat → Nat → Cell) (S : Nat → Nat → Bool), s.memoryWf = true ∧
      s.status.plcd = true ∧ s.frameVersion = 1 ∧ s.frameIs F ∧ isSymbol s.frameWidth s.job.plcLvl m F S :=
  ⟨framed dataFrame zeros true, 7, dataFrame, dataSymbol 7, framed_memoryWf _ _ _, rfl, rfl, framed_frameIs _ _ _,
    dataSymbol_isSymbol 7⟩

theorem witness_MselShowsTheFirstLowestPenalty :
    ∃ (s : State) (F : Nat → Nat → Cell) (S : Fin 8 → Nat → Nat → Bool), s.memoryWf = true ∧ s.config.maskEn ≠ 0 ∧
      s.status.plcd = true ∧ s.frameVersion = 1 ∧ s.frameIs F ∧ ∀ m, isSymbol s.frameWidth s.job.plcLvl m F (S m) :=
  ⟨framed dataFrame zeros true, dataFrame, dataSymbol, framed_memoryWf _ _ _, by decide, rfl, rfl,
    framed_frameIs _ _ _, dataSymbol_isSymbol⟩

theorem witness_EncodeIsTheFourCommands :
    (job 40 .l []).version = 40 ∧ (job 40 .l []).config.maskEn ≠ 0 := by decide

theorem witness_EncodeCompletesTheWholeSymbol :
    (job 1 .m textbook).memoryWf = true ∧ (job 1 .m textbook).version = 1 ∧ (job 1 .m textbook).config.maskEn ≠ 0 ∧
    ∀ i, i < dataCodewords 1 .m → (job 1 .m textbook).dbuf.read i ≠ none := by decide

theorem witness_IdleRegisterReadsAnswerTheirFields :
    (raiseError 0x21 .sequence (job 40 .h [])).resetPin = false ∧ (raiseError 0x21 .sequence (job 40 .h [])).busy = false := by
  decide

end Sys2Proof.Tests
end

section
/-! PROOFS. What a legal host access does, in one lemma each for reads and writes; the bits of the register words; and
the statements about single accesses and single steps (O6, O7, O11, O16, O18, O60). -/

namespace Sys2Proof.Machine

/-- A legal read that finds a value answers it and changes nothing else (R107). -/
theorem hostRead_of_value {w : Width} {a : Addr} {s : State} {t : Target} {off : Nat} {v : Word}
    (hl : legalAccess false w a = some (t, off)) (hv : readTarget s t off w = .value v) :
    hostRead w a s = .next { s with response := .data v } := by
  simp only [hostRead, hl, hv]
  rfl

/-- A legal read while the reset input is released, when it finds a value. -/
theorem perform_read_of_value {w : Width} {a : Addr} {s : State} {t : Target} {off : Nat} {v : Word}
    (hp : s.resetPin = false) (hl : legalAccess false w a = some (t, off)) (hv : readTarget s t off w = .value v) :
    perform (.read w a) s = .next { s with response := .data v } := by
  simp only [perform, hp, Bool.false_eq_true, if_false, hostRead_of_value hl hv]

/-- A legal write while the reset input is released has its target's effect and is answered (R102, R103). -/
theorem perform_write_of_legal {w : Width} {a : Addr} {s : State} {t : Target} {off : Nat} (v : Word)
    (hp : s.resetPin = false) (hl : legalAccess true w a = some (t, off)) :
    perform (.write w a v) s = .next { writeTarget s t off w v with response := .written } := by
  simp only [perform, hp, Bool.false_eq_true, if_false, hostWrite, hl]

/-- BUSY = 0 says that nothing is in flight (R55). -/
theorem busy_eq_false_iff (s : State) : s.busy = false ↔ s.inflight = none := by
  simp [State.busy]

theorem busy_eq_true_iff (s : State) : s.busy = true ↔ s.inflight ≠ none := by
  simp [State.busy, Option.isSome_iff_ne_none]

@[simp] theorem perform_engine (s : State) : perform .engine s = engineTurn s := rfl

/-- The engine's turn runs the command that the word in flight decodes to (R403). -/
theorem engineTurn_of_decode {s : State} {x : Word} {i : Instr} (hx : s.inflight = some x)
    (hd : decode x = .ok i) : engineTurn s = exec i s := by
  simp only [engineTurn, hx, hd]

theorem engineTurn_idle {s : State} (hx : s.inflight = none) : engineTurn s = .next s := by
  simp only [engineTurn, hx]

/-- Settles O6: a step is the engine's turn, and the engine's turn is exec of the decoded word. -/
theorem stepRunsTheDecodedCommand : Obligations.StepRunsTheDecodedCommand := by
  refine ⟨fun s rest x i hx hd ha => ?_, fun s x i hx hd ha => ?_, fun s w i hd hw => ?_, fun s ha hx => ?_⟩
  · rw [step_cons s _ rest ha]
    exact engineTurn_of_decode hx hd
  · rw [step_nil s ha]
    exact engineTurn_of_decode hx hd
  · have hword : tableWord 32 w = BitVec.ofNat 32 w := by rw [tableWord, Nat.mod_eq_of_lt hw]
    rw [State.withFetchWord, hword, step_cons _ .engine s.agenda rfl, perform_engine]
    exact engineTurn_of_decode rfl hd
  · rw [step_nil s ha]
    exact engineTurn_idle hx

/-- Settles O7: a CMD write is `submit`, which discards while BUSY = 1 or ERR = 1. -/
theorem cmdWriteIsAcceptedOrDiscarded : Obligations.CmdWriteIsAcceptedOrDiscarded := by
  intro s x hp
  rw [perform_write_of_legal (t := .cmd) (off := 0) x hp (by decide)]
  obtain ⟨hb, he, hsub⟩ | ⟨hbe, hsub⟩ := submit_cases x s
  · rw [if_neg (by simp [(busy_eq_false_iff s).1 hb, he]), writeTarget, hsub]
    rfl
  · rw [if_pos (by rwa [← busy_eq_true_iff]), writeTarget, hsub]
    rfl

/-- Settles O11: a STATUS write is `acknowledge`, whatever BUSY is. -/
theorem statusWriteClearsWrittenBits : Obligations.StatusWriteClearsWrittenBits := by
  intro s v hp
  rw [perform_write_of_legal (t := .status) (off := 0) v hp (by decide)]
  rfl

/-- Settles O16: each register's read at its address, evaluated in the reset state. -/
theorem registersAfterReset : Obligations.RegistersAfterReset := by
  refine ⟨fun p hp => ?_, rfl, rfl⟩
  fin_cases hp <;> exact hostRead_of_value rfl rfl

/-- A write to an input of the block is performed while BUSY = 0 (R461). -/
theorem writeInput_idle {s : State} (t : State) (hb : s.busy = false) : writeInput s t = t := by
  simp [writeInput, hb]

/-- A level's code is the two bits it was read from (R34). -/
theorem code_ofCode (c : BitVec 2) : (Level.ofCode c).code = c := by
  revert c; decide

/-! The bits of the register words (R34–R43): each word's bit i, field by field. -/

theorem getLsbD_configWord (c : ConfigReg) (i : Nat) (hi : i < 32) : c.word.getLsbD i =
    if i < 6 then c.version.getLsbD i else if i < 8 then false
    else if i < 10 then c.level.code.getLsbD (i - 8) else if i < 16 then false
    else if i < 24 then c.maskEn.getLsbD (i - 16) else decide (i = 24) && c.ie := by
  unfold ConfigReg.word
  repeat rw [BitVec.getLsbD_append]
  interval_cases i <;> simp

theorem getLsbD_errInfoWord (e : ErrInfoReg) (i : Nat) (hi : i < 32) : e.word.getLsbD i =
    if i < 4 then e.code.code.getLsbD i else if i < 8 then false
    else if i < 16 then e.opc.getLsbD (i - 8) else false := by
  unfold ErrInfoReg.word
  repeat rw [BitVec.getLsbD_append]
  interval_cases i <;> simp

theorem getLsbD_jobWord (j : JobReg) (i : Nat) (hi : i < 32) : j.word.getLsbD i =
    if i < 6 then j.seqVer.getLsbD i else if i < 8 then false
    else if i < 10 then j.seqLvl.code.getLsbD (i - 8) else if i < 16 then false
    else if i < 22 then j.frmVer.getLsbD (i - 16) else if i < 24 then false
    else if i < 26 then j.plcLvl.code.getLsbD (i - 24) else false := by
  unfold JobReg.word
  repeat rw [BitVec.getLsbD_append]
  interval_cases i <;> simp

theorem getLsbD_seqLenWord (l : SeqLenReg) (i : Nat) (hi : i < 32) : l.word.getLsbD i =
    if i < 12 then l.t.getLsbD i else if i < 16 then false
    else if i < 28 then l.d.getLsbD (i - 16) else false := by
  unfold SeqLenReg.word
  repeat rw [BitVec.getLsbD_append]
  interval_cases i <;> simp

/-- A word with zeros above its one field (RS_SRC, RESULT, BCH_OUT). -/
theorem zero_append_fields {n m : Nat} (b : BitVec m) :
    (0#n ++ b).extractLsb' 0 m = b ∧ (0#n ++ b) >>> m = 0 ∧ (0#n ++ b).toNat = b.toNat := by
  refine ⟨BitVec.extractLsb'_append_eq_right, ?_, by simp⟩
  apply BitVec.eq_of_toNat_eq
  simp [Nat.shiftRight_eq_div_pow, Nat.div_eq_of_lt b.isLt]

/-- The flags of a STATUS word (R36). -/
theorem statusWord_fields (busy : Bool) (f : StatusReg) :
    (statusWord busy f).getLsbD 0 = busy ∧ (statusWord busy f).getLsbD 1 = f.done ∧
      (statusWord busy f).getLsbD 2 = f.err ∧ (statusWord busy f).getLsbD 3 = f.ovr ∧
      (statusWord busy f).getLsbD 4 = f.seqv ∧ (statusWord busy f).getLsbD 5 = f.frmv ∧
      (statusWord busy f).getLsbD 6 = f.plcd ∧ (statusWord busy f).getLsbD 7 = f.matv ∧
      statusWord busy f >>> 8 = 0 := by
  obtain ⟨done, err, ovr, seqv, frmv, plcd, matv⟩ := f
  revert busy done err ovr seqv frmv plcd matv
  decide

/-- CONFIG after a write reads as the written word without its reserved bits (R34). -/
theorem word_ofWord (v : Word) : (ConfigReg.ofWord v).word = v &&& 0x01FF033F := by
  apply BitVec.eq_of_getLsbD_eq
  intro i hi
  rw [getLsbD_configWord _ i hi, ConfigReg.ofWord, code_ofCode]
  interval_cases i <;> simp

/-- RS_SRC after a write reads as the written word without its reserved bits (R38). -/
theorem rsSrcWord_extract (v : Word) : rsSrcWord (v.extractLsb' 0 12) = v &&& 0x00000FFF := by
  apply BitVec.eq_of_getLsbD_eq
  intro i hi
  rw [rsSrcWord, BitVec.getLsbD_append]
  interval_cases i <;> simp

/-- Settles O18: while BUSY = 0 the written fields are stored, and only reserved bits are lost. -/
theorem configAndSourceWritesStoreTheirFields : Obligations.ConfigAndSourceWritesStoreTheirFields := by
  intro s v hp hb
  refine ⟨⟨ConfigReg.ofWord v, ?_, rfl, code_ofCode _, rfl, rfl, word_ofWord v⟩,
    v.extractLsb' 0 12, ?_, rsSrcWord_extract v⟩
  · rw [perform_write_of_legal (t := .config) (off := 0) v hp (by decide), writeTarget, writeInput_idle _ hb]
  · rw [perform_write_of_legal (t := .rsSrc) (off := 0) v hp (by decide), writeTarget, writeInput_idle _ hb]

/-- A field of a word, bit by bit. -/
theorem extractLsb'_eq_of_bits {x : Word} {o n : Nat} {b : BitVec n}
    (h : ∀ i < n, x.getLsbD (o + i) = b.getLsbD i) : x.extractLsb' o n = b := by
  apply BitVec.eq_of_getLsbD_eq
  intro i hi
  simp [hi, h i hi]

/-- The reserved bits of a word are 0, bit by bit. -/
theorem and_eq_zero_of_bits {x k : Word} (h : ∀ i < 32, (x.getLsbD i && k.getLsbD i) = false) : x &&& k = 0 := by
  apply BitVec.eq_of_getLsbD_eq
  intro i hi
  simpa using h i hi

theorem configWord_fields (c : ConfigReg) :
    c.word.extractLsb' 0 6 = c.version ∧ c.word.extractLsb' 8 2 = c.level.code ∧
      c.word.extractLsb' 16 8 = c.maskEn ∧ c.word.getLsbD 24 = c.ie ∧ c.word &&& 0xFE00FCC0 = 0 := by
  refine ⟨extractLsb'_eq_of_bits fun i hi => ?_, extractLsb'_eq_of_bits fun i hi => ?_,
    extractLsb'_eq_of_bits fun i hi => ?_, getLsbD_configWord c 24 (by decide),
    and_eq_zero_of_bits fun i hi => ?_⟩ <;>
    rw [getLsbD_configWord c _ (by omega)] <;> interval_cases i <;> simp

theorem errInfoWord_fields (e : ErrInfoReg) :
    e.word.extractLsb' 0 4 = e.code.code ∧ e.word.extractLsb' 8 8 = e.opc ∧ e.word &&& 0xFFFF00F0 = 0 := by
  refine ⟨extractLsb'_eq_of_bits fun i hi => ?_, extractLsb'_eq_of_bits fun i hi => ?_,
    and_eq_zero_of_bits fun i hi => ?_⟩ <;>
    rw [getLsbD_errInfoWord e _ (by omega)] <;> interval_cases i <;> simp

theorem jobWord_fields (j : JobReg) :
    j.word.extractLsb' 0 6 = j.seqVer ∧ j.word.extractLsb' 8 2 = j.seqLvl.code ∧
      j.word.extractLsb' 16 6 = j.frmVer ∧ j.word.extractLsb' 24 2 = j.plcLvl.code ∧ j.word &&& 0xFCC0FCC0 = 0 := by
  refine ⟨extractLsb'_eq_of_bits fun i hi => ?_, extractLsb'_eq_of_bits fun i hi => ?_,
    extractLsb'_eq_of_bits fun i hi => ?_, extractLsb'_eq_of_bits fun i hi => ?_,
    and_eq_zero_of_bits fun i hi => ?_⟩ <;>
    rw [getLsbD_jobWord j _ (by omega)] <;> interval_cases i <;> simp

theorem seqLenWord_fields (l : SeqLenReg) :
    l.word.extractLsb' 0 12 = l.t ∧ l.word.extractLsb' 16 12 = l.d ∧ l.word &&& 0xF000F000 = 0 := by
  refine ⟨extractLsb'_eq_of_bits fun i hi => ?_, extractLsb'_eq_of_bits fun i hi => ?_,
    and_eq_zero_of_bits fun i hi => ?_⟩ <;>
    rw [getLsbD_seqLenWord l _ (by omega)] <;> interval_cases i <;> simp

/-- The address of a penalty register (R101). -/
theorem legalAccess_pen (m : Fin 8) :
    legalAccess false .word (BitVec.ofNat 18 (0x00040 + 4 * m.val)) = some (.pen m, 0) := by
  revert m; decide

/-- A result register reads as its value while BUSY = 0 (R462). -/
theorem resultValue_idle {s : State} (v : ReadValue) (hb : s.busy = false) : resultValue s v = v := by
  simp [resultValue, hb]

/-- Settles O60: each register's read finds its word, and the word carries the fields. -/
theorem idleRegisterReadsAnswerTheirFields : Obligations.IdleRegisterReadsAnswerTheirFields := by
  refine ⟨rfl, rfl, fun s hp hb => ?_⟩
  have hread : ∀ {a : Addr} {t : Target} {v : Word}, legalAccess false .word a = some (t, 0) →
      readTarget s t 0 .word = .value v → perform (.read .word a) s = .next { s with response := .data v } :=
    fun hl hv => perform_read_of_value hp hl hv
  refine ⟨hread (t := .id) (by decide) rfl,
    ⟨s.config.word, hread (t := .config) (by decide) rfl, configWord_fields _⟩,
    hread (t := .cmd) (by decide) rfl,
    ⟨statusWord false s.status, hread (t := .status) (by decide) (by simp [readTarget, hb]), statusWord_fields _ _⟩,
    ⟨s.errinfo.word, hread (t := .errinfo) (by decide) rfl, errInfoWord_fields _⟩,
    ⟨rsSrcWord s.rsSrc, hread (t := .rsSrc) (by decide) rfl, ?_⟩,
    ⟨resultWord s.matMask, hread (t := .result) (by decide) (resultValue_idle _ hb), ?_⟩,
    ⟨s.job.word, hread (t := .job) (by decide) (resultValue_idle _ hb), jobWord_fields _⟩,
    ⟨bchOutWord s.bchOut, hread (t := .bchOut) (by decide) (resultValue_idle _ hb), ?_⟩,
    ⟨s.seqLen.word, hread (t := .seqLen) (by decide) (resultValue_idle _ hb), seqLenWord_fields _⟩,
    fun m => hread (legalAccess_pen m) (resultValue_idle _ hb)⟩
  · exact ⟨(zero_append_fields s.rsSrc).1, (zero_append_fields s.rsSrc).2.1⟩
  · exact (zero_append_fields (n := 29) (BitVec.ofFin (w := 3) s.matMask)).2.2
  · exact ⟨(zero_append_fields s.bchOut).1, (zero_append_fields s.bchOut).2.1⟩

end Sys2Proof.Machine
end

section
/-! PROOFS. A command as a check, an effect and its completion; a step as the few things that can happen to the state.
Every invariant is proved over these two case lists: STATUS (O22), the buffers' form (O21), the valid flags (O19). -/

namespace Sys2Proof

open Machine

/-- The error that stops a command before it writes anything, by R402's priority. -/
def Instr.check (i : Instr) (s : State) : Option ErrCode :=
  match i with
  | .nop | .srst | .fmtinfo _ _ => none
  | .rsenc k nr => if badRsOperands k nr s.rsSrc.toNat then some .badrs else none
  | .eccbld | .frminit => if legalVersion s.version then none else some .badver
  | .place => if s.cannotPlace then some .sequence else none
  | .mapply _ | .meval _ => if s.status.plcd then none else some .sequence
  | .msel => if s.config.maskEn = 0 then some .badmask else if s.status.plcd then none else some .sequence
  | .verinfo v => if v < 7 ∨ 40 < v then some .badver else none
  | .encode => if legalVersion s.version then if s.config.maskEn = 0 then some .badmask else none else some .badver

/-- What a command other than SRST does to the state once its check has passed, before it completes. -/
def Instr.Effect (i : Instr) (s u : State) : Prop :=
  match i with
  | .nop => u = s
  | .srst => False
  | .rsenc k nr => ∃ d, readData s s.rsSrc.toNat k = some d ∧ u = { s with pbuf := s.pbuf.writeRun 0 (rsParity d nr) }
  | .eccbld => eccbldBody s = .next u
  | .frminit => frminitBody s = .next u
  | .place => placeBody s = .next u
  | .mapply m => ∃ rows, readFrame s = some rows ∧ u = showSymbol (s.symbol rows m) m s
  | .meval m => ∃ rows, readFrame s = some rows ∧
      u = { s with pen := s.pen.set m (BitVec.ofNat 32 (s.maskPenalty rows m)) }
  | .msel => mselBody s = .next u
  | .fmtinfo lvl m => u = { s with bchOut := (formatWord lvl m).setWidth 18 }
  | .verinfo v => u = { s with bchOut := versionWord v }
  | .encode => encodeBody s = .next u

end Sys2Proof

namespace Sys2Proof.Machine

/-- What a command can do, said once: SRST resets, a failed check only records itself, and otherwise the command has
its effect and completes. -/
theorem exec_cases {i : Instr} {s t : State} (h : exec i s = .next t) :
    (i = .srst ∧ t = applyReset s) ∨
      (∃ e, i.check s = some e ∧ t = raiseError i.opc e s) ∨
      (i ≠ .srst ∧ i.check s = none ∧ ∃ u, i.Effect s u ∧ t = completeOk u) := by
  cases i with
  | nop => exact .inr (.inr ⟨by simp, rfl, s, rfl, (execNop_next s t).1 h⟩)
  | srst => exact .inl ⟨rfl, (execSrst_next s t).1 h⟩
  | rsenc k nr =>
    obtain ⟨hc, rfl⟩ | ⟨hc, d, hd, rfl⟩ := (execRsenc_next k nr s t).1 h
    · exact .inr (.inl ⟨.badrs, by simp [Instr.check, hc], rfl⟩)
    · exact .inr (.inr ⟨by simp, by simp [Instr.check, hc], _, ⟨d, hd, rfl⟩, rfl⟩)
  | eccbld =>
    obtain ⟨hc, rfl⟩ | ⟨hc, u, hu, rfl⟩ := (execEccbld_next s t).1 h
    · exact .inr (.inl ⟨.badver, by simp [Instr.check, hc], rfl⟩)
    · exact .inr (.inr ⟨by simp, by simp [Instr.check, hc], u, hu, rfl⟩)
  | frminit =>
    obtain ⟨hc, rfl⟩ | ⟨hc, u, hu, rfl⟩ := (execFrminit_next s t).1 h
    · exact .inr (.inl ⟨.badver, by simp [Instr.check, hc], rfl⟩)
    · exact .inr (.inr ⟨by simp, by simp [Instr.check, hc], u, hu, rfl⟩)
  | place =>
    obtain ⟨hc, rfl⟩ | ⟨hc, u, hu, rfl⟩ := (execPlace_next s t).1 h
    · exact .inr (.inl ⟨.sequence, by simp [Instr.check, hc], rfl⟩)
    · exact .inr (.inr ⟨by simp, by simp [Instr.check, hc], u, hu, rfl⟩)
  | mapply m =>
    obtain ⟨hc, rfl⟩ | ⟨hc, rows, hr, rfl⟩ := (execMapply_next m s t).1 h
    · exact .inr (.inl ⟨.sequence, by simp [Instr.check, hc], rfl⟩)
    · exact .inr (.inr ⟨by simp, by simp [Instr.check, hc], _, ⟨rows, hr, rfl⟩, rfl⟩)
  | meval m =>
    obtain ⟨hc, rfl⟩ | ⟨hc, rows, hr, rfl⟩ := (execMeval_next m s t).1 h
    · exact .inr (.inl ⟨.sequence, by simp [Instr.check, hc], rfl⟩)
    · exact .inr (.inr ⟨by simp, by simp [Instr.check, hc], _, ⟨rows, hr, rfl⟩, rfl⟩)
  | msel =>
    obtain ⟨hm, rfl⟩ | ⟨hm, hc, rfl⟩ | ⟨hm, hc, u, hu, rfl⟩ := (execMsel_next s t).1 h
    · exact .inr (.inl ⟨.badmask, by simp [Instr.check, hm], rfl⟩)
    · exact .inr (.inl ⟨.sequence, by rw [Instr.check, if_neg hm]; simp [hc], rfl⟩)
    · exact .inr (.inr ⟨by simp, by rw [Instr.check, if_neg hm]; simp [hc], u, hu, rfl⟩)
  | fmtinfo lvl m => exact .inr (.inr ⟨by simp, rfl, _, rfl, (execFmtinfo_next lvl m s t).1 h⟩)
  | verinfo v =>
    obtain ⟨hc, rfl⟩ | ⟨hc, rfl⟩ := (execVerinfo_next v s t).1 h
    · exact .inr (.inl ⟨.badver, by simp [Instr.check, hc], rfl⟩)
    · exact .inr (.inr ⟨by simp, by simp [Instr.check]; omega, _, rfl, rfl⟩)
  | encode =>
    obtain ⟨hc, rfl⟩ | ⟨hc, hm, rfl⟩ | ⟨hc, hm, u, hu, rfl⟩ := (execEncode_next s t).1 h
    · exact .inr (.inl ⟨.badver, by simp [Instr.check, hc], rfl⟩)
    · exact .inr (.inl ⟨.badmask, by simp [Instr.check, hc, hm], rfl⟩)
    · exact .inr (.inr ⟨by simp, by rw [Instr.check, if_neg hm]; simp [hc], u, hu, rfl⟩)

/-- The codes a check can give: never NONE, ILLEGAL or INTERNAL (R401). -/
theorem check_code {i : Instr} {s : State} {e : ErrCode} (h : i.check s = some e) :
    e ∈ [ErrCode.badver, .badrs, .sequence, .badmask] := by
  cases i <;> grind [Instr.check]

/-! What no effect touches. -/

/-- What a command reads or leaves to the host: the state outside the results (R30). -/
structure KeepsInputs (s u : State) : Prop where
  config : u.config = s.config
  lastCmd : u.lastCmd = s.lastCmd
  done : u.status.done = s.status.done
  err : u.status.err = s.status.err
  ovr : u.status.ovr = s.status.ovr
  errinfo : u.errinfo = s.errinfo
  rsSrc : u.rsSrc = s.rsSrc
  dbuf : u.dbuf = s.dbuf
  inflight : u.inflight = s.inflight
  agenda : u.agenda = s.agenda
  resetPin : u.resetPin = s.resetPin
  response : u.response = s.response
  freeCount : u.freeCount = s.freeCount

theorem KeepsInputs.trans {s u v : State} (h : KeepsInputs s u) (k : KeepsInputs u v) : KeepsInputs s v :=
  ⟨k.config.trans h.config, k.lastCmd.trans h.lastCmd, k.done.trans h.done, k.err.trans h.err, k.ovr.trans h.ovr,
    k.errinfo.trans h.errinfo, k.rsSrc.trans h.rsSrc, k.dbuf.trans h.dbuf, k.inflight.trans h.inflight,
    k.agenda.trans h.agenda, k.resetPin.trans h.resetPin, k.response.trans h.response,
    k.freeCount.trans h.freeCount⟩

theorem eccbldBody_keepsInputs {s u : State} (h : eccbldBody s = .next u) : KeepsInputs s u := by
  obtain ⟨d, -, rfl⟩ := (eccbldBody_next s u).1 h
  constructor <;> rfl

theorem frminitBody_keepsInputs {s u : State} (h : frminitBody s = .next u) : KeepsInputs s u := by
  obtain rfl := (frminitBody_next s u).1 h
  constructor <;> rfl

theorem placeBody_keepsInputs {s u : State} (h : placeBody s = .next u) : KeepsInputs s u := by
  obtain ⟨rows, seq, -, -, -, rfl⟩ := (placeBody_next s u).1 h
  constructor <;> rfl

theorem mselBody_keepsInputs {s u : State} (h : mselBody s = .next u) : KeepsInputs s u := by
  obtain ⟨rows, -, ⟨-, rfl⟩ | ⟨best, -, rfl⟩⟩ := (mselBody_next s u).1 h <;> constructor <;> rfl

/-- A command's effect lies in the result registers, the valid flags and the result buffers. -/
theorem effect_keepsInputs {i : Instr} {s u : State} (h : i.Effect s u) : KeepsInputs s u := by
  cases i with
  | nop | fmtinfo | verinfo => cases h; constructor <;> rfl
  | srst => cases h
  | rsenc | mapply | meval =>
    obtain ⟨_, -, rfl⟩ := h
    constructor <;> rfl
  | eccbld => exact eccbldBody_keepsInputs h
  | frminit => exact frminitBody_keepsInputs h
  | place => exact placeBody_keepsInputs h
  | msel => exact mselBody_keepsInputs h
  | encode =>
    obtain ⟨u₁, u₂, u₃, h₁, h₂, h₃, h₄⟩ := (encodeBody_next s u).1 h
    exact (((eccbldBody_keepsInputs h₁).trans (frminitBody_keepsInputs h₂)).trans
      (placeBody_keepsInputs h₃)).trans (mselBody_keepsInputs h₄)

/-! What an effect does to the valid flags (R36). -/

theorem mem_maskIds (m : Fin 8) : m ∈ maskIds := by
  revert m; decide

/-- A candidate mask exists while MASK_EN ≠ 0 (R334). -/
theorem candidates_ne_nil {s : State} (rows : List (List Cell)) (hm : s.config.maskEn ≠ 0) :
    s.candidates rows ≠ [] := by
  have hbit : ∃ m : Fin 8, s.config.maskEn.getLsbD m.val = true := by
    by_contra hno
    push Not at hno
    refine hm (BitVec.eq_of_getLsbD_eq fun i hi => ?_)
    simpa using hno ⟨i, hi⟩
  obtain ⟨m, hbit⟩ := hbit
  have : (m, s.maskPenalty rows m) ∈ s.candidates rows :=
    List.mem_map.2 ⟨m, List.mem_filter.2 ⟨mem_maskIds m, hbit⟩, rfl⟩
  exact List.ne_nil_of_mem this

/-- The search for the lowest penalty ends with a candidate once it has seen one. -/
theorem firstMinimum_ne_none (best : Option (Fin 8 × Nat)) (cands : List (Fin 8 × Nat))
    (h : best ≠ none ∨ cands ≠ []) : firstMinimum best cands ≠ none := by
  induction cands generalizing best with
  | nil => simpa [firstMinimum] using h
  | cons c cs ih =>
    cases best with
    | none => exact ih _ (.inl (by simp))
    | some b => exact ih _ (.inl (by split_ifs <;> simp))

/-- With a candidate MSEL shows one (R334). -/
theorem mselBody_next_of_candidate {s u : State} (hm : s.config.maskEn ≠ 0) (h : mselBody s = .next u) :
    ∃ rows best, readFrame s = some rows ∧ firstMinimum none (s.candidates rows) = some best ∧
      u = showSymbol (s.symbol rows best.1) best.1 { s with pen := penaltyFile (s.candidates rows) } := by
  obtain ⟨rows, hr, ⟨hn, -⟩ | ⟨best, hb, hu⟩⟩ := (mselBody_next s u).1 h
  · exact absurd hn (firstMinimum_ne_none _ _ (.inr (candidates_ne_nil rows hm)))
  · exact ⟨rows, best, hr, hb, hu⟩

end Sys2Proof.Machine

namespace Sys2Proof

open Machine

/-- The valid flags after a command other than SRST has had its effect (R36). -/
def Instr.flagsAfter (i : Instr) (f : StatusReg) : StatusReg :=
  match i with
  | .eccbld => { f with seqv := true }
  | .frminit => { f with frmv := true, plcd := false, matv := false }
  | .place => { f with plcd := true }
  | .mapply _ | .msel => { f with matv := true }
  | .encode => { f with seqv := true, frmv := true, plcd := true, matv := true }
  | .nop | .srst | .rsenc _ _ | .meval _ | .fmtinfo _ _ | .verinfo _ => f

end Sys2Proof

namespace Sys2Proof.Machine

theorem eccbldBody_status {s u : State} (h : eccbldBody s = .next u) : u.status = { s.status with seqv := true } := by
  obtain ⟨d, -, rfl⟩ := (eccbldBody_next s u).1 h
  rfl

theorem frminitBody_status {s u : State} (h : frminitBody s = .next u) :
    u.status = { s.status with frmv := true, plcd := false, matv := false } := by
  obtain rfl := (frminitBody_next s u).1 h
  rfl

theorem placeBody_status {s u : State} (h : placeBody s = .next u) : u.status = { s.status with plcd := true } := by
  obtain ⟨rows, seq, -, -, -, rfl⟩ := (placeBody_next s u).1 h
  rfl

theorem mselBody_status {s u : State} (hm : s.config.maskEn ≠ 0) (h : mselBody s = .next u) :
    u.status = { s.status with matv := true } := by
  obtain ⟨rows, best, -, -, rfl⟩ := mselBody_next_of_candidate hm h
  rfl

/-- A candidate is there when MSEL's or ENCODE's check has passed (R334, R372). -/
theorem maskEn_ne_zero_of_check {s : State} (h : Instr.msel.check s = none ∨ Instr.encode.check s = none) :
    s.config.maskEn ≠ 0 := by
  intro hm
  obtain h | h := h
  · simp [Instr.check, hm] at h
  · cases hv : legalVersion s.version <;> simp [Instr.check, hm, hv] at h

/-- A command's effect on STATUS is on the valid flags alone, as R36 lists. -/
theorem effect_status {i : Instr} {s u : State} (hc : i.check s = none) (h : i.Effect s u) :
    u.status = i.flagsAfter s.status := by
  cases i with
  | nop | fmtinfo | verinfo => cases h; rfl
  | srst => cases h
  | rsenc | mapply | meval =>
    obtain ⟨_, -, rfl⟩ := h
    rfl
  | eccbld => exact eccbldBody_status h
  | frminit => exact frminitBody_status h
  | place => exact placeBody_status h
  | msel => exact mselBody_status (maskEn_ne_zero_of_check (.inl hc)) h
  | encode =>
    have hm := maskEn_ne_zero_of_check (.inr hc)
    obtain ⟨u₁, u₂, u₃, h₁, h₂, h₃, h₄⟩ := (encodeBody_next s u).1 h
    have hk := ((eccbldBody_keepsInputs h₁).trans (frminitBody_keepsInputs h₂)).trans (placeBody_keepsInputs h₃)
    rw [mselBody_status (hk.config ▸ hm) h₄, placeBody_status h₃, frminitBody_status h₂, eccbldBody_status h₁]
    rfl

/-! What a step can do. -/

/-- A write's target decides which of the shared operations is done (R101, R461). -/
theorem writeTarget_cases (s : State) (tgt : Target) (off : Nat) (w : Width) (v : Word) :
    writeTarget s tgt off w v = s ∨ writeTarget s tgt off w v = discard s ∨
      writeTarget s tgt off w v = acknowledge v s ∨
      (s.busy = false ∧ s.status.err = false ∧ writeTarget s tgt off w v = accept v s) ∨
      (s.busy = false ∧ writeTarget s tgt off w v = { s with config := ConfigReg.ofWord v }) ∨
      (s.busy = false ∧ writeTarget s tgt off w v = { s with rsSrc := v.extractLsb' 0 12 }) ∨
      (s.busy = false ∧ tgt = .dbuf ∧
        writeTarget s tgt off w v = { s with dbuf := s.dbuf.writeRun off (bytesOf v w.bytes) }) := by
  cases tgt with
  | config =>
    obtain ⟨hb, h⟩ | ⟨-, h⟩ := writeInput_cases s { s with config := ConfigReg.ofWord v } <;> simp [writeTarget, *]
  | rsSrc =>
    obtain ⟨hb, h⟩ | ⟨-, h⟩ := writeInput_cases s { s with rsSrc := v.extractLsb' 0 12 } <;> simp [writeTarget, *]
  | dbuf =>
    obtain ⟨hb, h⟩ | ⟨-, h⟩ := writeInput_cases s { s with dbuf := s.dbuf.writeRun off (bytesOf v w.bytes) } <;>
      simp [writeTarget, *]
  | cmd =>
    obtain ⟨hb, he, h⟩ | ⟨-, h⟩ := submit_cases v s
    · simp [writeTarget, h, hb, he]
    · simp [writeTarget, h]
  | status => simp [writeTarget]
  | _ => exact .inl rfl

/-- The state with its next event taken off the agenda. -/
def State.takeEvent (s : State) : State := { s with agenda := s.agenda.tail }

theorem takeEvent_of_nil {s : State} (h : s.agenda = []) : s.takeEvent = s := by
  cases s
  cases h
  rfl

theorem takeEvent_of_cons {s : State} {e : Event} {rest : List Event} (h : s.agenda = e :: rest) :
    s.takeEvent = { s with agenda := rest } := by
  rw [State.takeEvent, h, List.tail_cons]

/-- A step is one event, or the engine's turn when none is left. -/
theorem step_eq_takeEvent {s t : State} (h : step s = .next t) :
    engineTurn s.takeEvent = .next t ∨ ∃ e rest, s.agenda = e :: rest ∧ perform e s.takeEvent = .next t := by
  cases ha : s.agenda with
  | nil => exact .inl (by rwa [takeEvent_of_nil ha, ← step_nil s ha])
  | cons e rest => exact .inr ⟨e, rest, rfl, by rwa [takeEvent_of_cons ha, ← step_cons s e rest ha]⟩

/-- What a step that answers next can do, once its event is off the agenda. -/
inductive StepCase (s t : State) : Prop
  /-- Nothing happens: an idle engine (R417), or the release of a reset input that is not asserted (R450). -/
  | idle (h : t = s.takeEvent)
  /-- The command in flight runs and completes (R403). -/
  | command (x : Word) (i : Instr) (hx : s.inflight = some x) (hd : decode x = .ok i)
      (h : exec i s.takeEvent = .next t)
  /-- The word in flight is no command (R145). -/
  | illegal (x : Word) (hx : s.inflight = some x) (h : t = completeIllegal x s.takeEvent)
  /-- The reset input takes effect (R450). -/
  | reset (b : Bool) (rest : List Event) (ha : s.agenda = .resetInput b :: rest)
      (h : t = { applyReset s.takeEvent with resetPin := b })
  /-- The host reads (R107). -/
  | read (v : Word) (n : Nat) (h : t = { s.takeEvent with response := .data v, freeCount := n })
  /-- The host writes (R101, R461). -/
  | write (w : Width) (a : Addr) (v : Word) (tgt : Target) (off : Nat) (hp : s.resetPin = false)
      (hl : legalAccess true w a = some (tgt, off))
      (h : t = { writeTarget s.takeEvent tgt off w v with response := .written })

theorem stepCase_of_engineTurn {s t : State} (h : engineTurn s.takeEvent = .next t) : StepCase s t := by
  obtain ⟨-, ht⟩ | ⟨x, hx, ⟨i, hd, he⟩ | ⟨-, ht⟩⟩ := engineTurn_next _ t h
  · exact .idle ht
  · exact .command x i hx hd he
  · exact .illegal x hx ht

theorem stepCase_of_changeReset {s t : State} {b : Bool} {rest : List Event} (ha : s.agenda = .resetInput b :: rest)
    (h : t = changeReset b s.takeEvent) : StepCase s t := by
  unfold changeReset at h
  split_ifs at h
  · exact .reset b rest ha h
  · exact .idle h

/-- A step that answers next is one of the six cases. -/
theorem stepCase_of_step {s t : State} (h : step s = .next t) : StepCase s t := by
  obtain h | ⟨e, rest, ha, h⟩ := step_eq_takeEvent h
  · exact stepCase_of_engineTurn h
  obtain ⟨-, he⟩ | ⟨b, rfl, hb⟩ | ⟨w, a, rfl, -, hr⟩ | ⟨w, a, v, rfl, hp, hw⟩ := perform_next e _ t h
  · exact stepCase_of_engineTurn he
  · exact stepCase_of_changeReset ha hb
  · obtain ⟨v, n, ht⟩ := hostRead_next w a _ t hr
    exact .read v n ht
  · obtain ⟨tgt, off, hl, ht⟩ := (hostWrite_next w a v _ t).1 hw
    exact .write w a v tgt off hp hl ht

/-- An invariant of every step: it does not look at the agenda or at what the host was answered, the reset state meets
it, and each command, an illegal word and each write keep it. -/
theorem step_keeps {P : State → Prop}
    (htake : ∀ s, P s → P s.takeEvent)
    (hanswer : ∀ s r n, P s → P { s with response := r, freeCount := n })
    (hreset : ∀ s b, P { applyReset s with resetPin := b })
    (hcommand : ∀ s t x i, P s → s.inflight = some x → exec i s = .next t → P t)
    (hillegal : ∀ s x, P s → s.inflight = some x → P (completeIllegal x s))
    (hwrite : ∀ s tgt off w a v, P s → s.resetPin = false → legalAccess true w a = some (tgt, off) →
      P (writeTarget s tgt off w v))
    (s t : State) (hs : P s) (h : step s = .next t) : P t := by
  have hs' := htake s hs
  cases stepCase_of_step h with
  | idle h => exact h ▸ hs'
  | command x i hx _ h => exact hcommand _ t x i hs' hx h
  | illegal x hx h => exact h ▸ hillegal _ x hs' hx
  | reset b _ _ h => exact h ▸ hreset _ b
  | read v n h => exact h ▸ hanswer _ _ n hs'
  | write w a v tgt off hp hl h => exact h ▸ hanswer _ .written _ (hwrite _ tgt off w a v hs' hp hl)

/-! BUSY, DONE, ERR and ERRINFO (R36, R37). -/

/-- Only BUSY, DONE, ERR and ERRINFO matter for their consistency. -/
theorem State.StatusConsistent.congr {s t : State} (h : s.StatusConsistent) (hx : t.inflight = s.inflight)
    (hd : t.status.done = s.status.done) (he : t.status.err = s.status.err) (hi : t.errinfo = s.errinfo) :
    t.StatusConsistent := by
  obtain ⟨h1, h2, h3, h4⟩ := h
  constructor
  · rwa [State.busy, hx, hd, he]
  · rwa [he, hi]
  · rwa [he, hi]
  · rwa [hi]

theorem statusConsistent_of_reset {t : State} (hx : t.inflight = none) (hs : t.status = State.reset.status)
    (hi : t.errinfo = ErrInfoReg.clear) : t.StatusConsistent := by
  constructor
  · simp [State.busy, hx]
  · exact fun _ => hi
  · simp [hs, State.reset]
  · simp [hi, ErrInfoReg.clear]

theorem raiseError_statusConsistent (opc : Byte) {e : ErrCode} (s : State) (hn : e ≠ .none) (hi : e ≠ .internal) :
    (raiseError opc e s).StatusConsistent := by
  constructor <;> simp [hn, hi]

theorem completeOk_statusConsistent {s : State} (h : s.StatusConsistent) : (completeOk s).StatusConsistent := by
  obtain ⟨-, h2, h3, h4⟩ := h
  constructor
  · simp
  · simpa using h2
  · simpa using h3
  · simpa using h4

theorem accept_statusConsistent (x : Word) {s : State} (h : s.StatusConsistent) (he : s.status.err = false) :
    (accept x s).StatusConsistent := by
  obtain ⟨-, h2, h3, h4⟩ := h
  constructor
  · simp [he]
  · simpa using h2
  · simpa using h3
  · simpa using h4

theorem acknowledge_statusConsistent (v : Word) {s : State} (h : s.StatusConsistent) :
    (acknowledge v s).StatusConsistent := by
  obtain ⟨h1, h2, h3, h4⟩ := h
  constructor
  · intro hb
    simp [h1 hb]
  · rw [acknowledge_status, clear_err, acknowledge_errinfo]
    cases v.getLsbD 2
    · simpa using h2
    · simp
  · rw [acknowledge_status, clear_err, acknowledge_errinfo]
    cases v.getLsbD 2
    · simpa using h3
    · simp
  · rw [acknowledge_errinfo]
    cases v.getLsbD 2
    · simpa using h4
    · simp [ErrInfoReg.clear]

/-- A command leaves STATUS and ERRINFO consistent. -/
theorem exec_statusConsistent {i : Instr} {s t : State} (hs : s.StatusConsistent) (h : exec i s = .next t) :
    t.StatusConsistent := by
  obtain ⟨-, rfl⟩ | ⟨e, he, rfl⟩ | ⟨-, -, u, hu, rfl⟩ := exec_cases h
  · exact statusConsistent_of_reset rfl rfl rfl
  · have hmem := check_code he
    exact raiseError_statusConsistent _ s (by rintro rfl; simp at hmem) (by rintro rfl; simp at hmem)
  · have hk := effect_keepsInputs hu
    exact completeOk_statusConsistent (hs.congr hk.inflight hk.done hk.err hk.errinfo)

theorem writeTarget_statusConsistent {s : State} (tgt : Target) (off : Nat) (w : Width) (v : Word)
    (hs : s.StatusConsistent) : (writeTarget s tgt off w v).StatusConsistent := by
  obtain h | h | h | ⟨-, he, h⟩ | ⟨-, h⟩ | ⟨-, h⟩ | ⟨-, -, h⟩ := writeTarget_cases s tgt off w v <;> rw [h]
  · exact hs
  · exact hs.congr rfl rfl rfl rfl
  · exact acknowledge_statusConsistent v hs
  · exact accept_statusConsistent v hs he
  · exact hs.congr rfl rfl rfl rfl
  · exact hs.congr rfl rfl rfl rfl
  · exact hs.congr rfl rfl rfl rfl

/-- Settles O22: no case of a step breaks the four conditions. -/
theorem stepKeepsStatusConsistent : Obligations.StepKeepsStatusConsistent :=
  step_keeps
    (htake := fun _ hs => hs.congr rfl rfl rfl rfl)
    (hanswer := fun _ _ _ hs => hs.congr rfl rfl rfl rfl)
    (hreset := fun _ _ => statusConsistent_of_reset rfl rfl rfl)
    (hcommand := fun _ _ _ _ hs _ h => exec_statusConsistent hs h)
    (hillegal := fun s _ _ _ => raiseError_statusConsistent _ s (by decide) (by decide))
    (hwrite := fun _ tgt off w _ v hs _ _ => writeTarget_statusConsistent tgt off w v hs)

/-! The canonical form of the buffers (R44–R49). -/

theorem memoryWf_iff (s : State) : s.memoryWf = true ↔
    s.dbuf.wf = true ∧ s.seq.wf = true ∧ s.pbuf.wf = true ∧ s.frame.wf = true ∧ s.matrix.wf = true := by
  simp [State.memoryWf, and_assoc]

theorem wf_matrixImage (S : List (List Bool)) : (matrixImage S).wf = true := Memory.wf_ofGrid _

theorem eccbldBody_memoryWf {s u : State} (h : eccbldBody s = .next u) (hs : s.memoryWf = true) :
    u.memoryWf = true := by
  obtain ⟨d, -, rfl⟩ := (eccbldBody_next s u).1 h
  obtain ⟨hd, hq, hp, hf, hm⟩ := (memoryWf_iff s).1 hs
  exact (memoryWf_iff _).2 ⟨hd, Memory.wf_writeRun _ hq _ _, hp, hf, hm⟩

theorem frminitBody_memoryWf {s u : State} (h : frminitBody s = .next u) (hs : s.memoryWf = true) :
    u.memoryWf = true := by
  obtain rfl := (frminitBody_next s u).1 h
  obtain ⟨hd, hq, hp, -, hm⟩ := (memoryWf_iff s).1 hs
  exact (memoryWf_iff _).2 ⟨hd, hq, hp, Memory.wf_ofGrid _, hm⟩

theorem placeBody_memoryWf {s u : State} (h : placeBody s = .next u) (hs : s.memoryWf = true) :
    u.memoryWf = true := by
  obtain ⟨rows, seq, -, -, -, rfl⟩ := (placeBody_next s u).1 h
  obtain ⟨hd, hq, hp, hf, hm⟩ := (memoryWf_iff s).1 hs
  exact (memoryWf_iff _).2 ⟨hd, hq, hp, Memory.wf_writeAll _ hf _, hm⟩

theorem showSymbol_memoryWf (S : List (List Bool)) (m : Fin 8) {s : State} (hs : s.memoryWf = true) :
    (showSymbol S m s).memoryWf = true := by
  obtain ⟨hd, hq, hp, hf, -⟩ := (memoryWf_iff s).1 hs
  exact (memoryWf_iff _).2 ⟨hd, hq, hp, hf, wf_matrixImage S⟩

theorem mselBody_memoryWf {s u : State} (h : mselBody s = .next u) (hs : s.memoryWf = true) : u.memoryWf = true := by
  obtain ⟨rows, -, ⟨-, rfl⟩ | ⟨best, -, rfl⟩⟩ := (mselBody_next s u).1 h
  · exact hs
  · exact showSymbol_memoryWf _ _ hs

/-- Every effect writes its buffers in canonical form. -/
theorem effect_memoryWf {i : Instr} {s u : State} (h : i.Effect s u) (hs : s.memoryWf = true) :
    u.memoryWf = true := by
  cases i with
  | nop | fmtinfo | verinfo => cases h; exact hs
  | srst => cases h
  | rsenc k nr =>
    obtain ⟨d, -, rfl⟩ := h
    obtain ⟨hd, hq, hp, hf, hm⟩ := (memoryWf_iff s).1 hs
    exact (memoryWf_iff _).2 ⟨hd, hq, Memory.wf_writeRun _ hp _ _, hf, hm⟩
  | mapply m =>
    obtain ⟨rows, -, rfl⟩ := h
    exact showSymbol_memoryWf _ _ hs
  | meval m =>
    obtain ⟨rows, -, rfl⟩ := h
    exact hs
  | eccbld => exact eccbldBody_memoryWf h hs
  | frminit => exact frminitBody_memoryWf h hs
  | place => exact placeBody_memoryWf h hs
  | msel => exact mselBody_memoryWf h hs
  | encode =>
    obtain ⟨u₁, u₂, u₃, h₁, h₂, h₃, h₄⟩ := (encodeBody_next s u).1 h
    exact mselBody_memoryWf h₄ (placeBody_memoryWf h₃ (frminitBody_memoryWf h₂ (eccbldBody_memoryWf h₁ hs)))

theorem exec_memoryWf {i : Instr} {s t : State} (hs : s.memoryWf = true) (h : exec i s = .next t) :
    t.memoryWf = true := by
  obtain ⟨-, rfl⟩ | ⟨e, -, rfl⟩ | ⟨-, -, u, hu, rfl⟩ := exec_cases h
  · rfl
  · exact hs
  · show u.memoryWf = true
    exact effect_memoryWf hu hs

theorem writeTarget_memoryWf {s : State} (tgt : Target) (off : Nat) (w : Width) (v : Word) (hs : s.memoryWf = true) :
    (writeTarget s tgt off w v).memoryWf = true := by
  obtain h | h | h | ⟨-, -, h⟩ | ⟨-, h⟩ | ⟨-, h⟩ | ⟨-, -, h⟩ := writeTarget_cases s tgt off w v <;> rw [h]
  case inr.inr.inr.inr.inr.inr =>
    obtain ⟨hd, hq, hp, hf, hm⟩ := (memoryWf_iff s).1 hs
    exact (memoryWf_iff _).2 ⟨Memory.wf_writeRun _ hd _ _, hq, hp, hf, hm⟩
  all_goals exact hs

/-- Settles O21: the buffers' writes keep the canonical form, and nothing else touches a buffer but a reset. -/
theorem stepKeepsMemoryCanonical : Obligations.StepKeepsMemoryCanonical :=
  step_keeps (P := fun s => s.memoryWf = true)
    (htake := fun _ hs => hs)
    (hanswer := fun _ _ _ hs => hs)
    (hreset := fun _ _ => rfl)
    (hcommand := fun _ _ _ _ hs _ h => exec_memoryWf hs h)
    (hillegal := fun _ _ hs _ => hs)
    (hwrite := fun _ tgt off w _ v hs _ _ => writeTarget_memoryWf tgt off w v hs)

/-! The valid flags (R36). -/

/-- STATUS after a command: SRST clears it, an error keeps the valid flags, a success changes them as R36 lists. -/
theorem exec_status {i : Instr} {s t : State} (h : exec i s = .next t) :
    (i = .srst ∧ t.status = State.reset.status) ∨
      (t.status = { s.status with err := true, done := true }) ∨
      (i ≠ .srst ∧ t.status = { i.flagsAfter s.status with done := true }) := by
  obtain ⟨hi, rfl⟩ | ⟨e, -, rfl⟩ | ⟨hi, hc, u, hu, rfl⟩ := exec_cases h
  · exact .inl ⟨hi, rfl⟩
  · exact .inr (.inl rfl)
  · exact .inr (.inr ⟨hi, by rw [completeOk_status, effect_status hc hu]⟩)

theorem writeTarget_flags (s : State) (tgt : Target) (off : Nat) (w : Width) (v : Word) :
    (writeTarget s tgt off w v).status.seqv = s.status.seqv ∧
      (writeTarget s tgt off w v).status.frmv = s.status.frmv ∧
      (writeTarget s tgt off w v).status.plcd = s.status.plcd ∧
      (writeTarget s tgt off w v).status.matv = s.status.matv := by
  obtain h | h | h | ⟨-, -, h⟩ | ⟨-, h⟩ | ⟨-, h⟩ | ⟨-, -, h⟩ := writeTarget_cases s tgt off w v <;> rw [h] <;>
    exact ⟨rfl, rfl, rfl, rfl⟩

theorem flagsAfter_err (i : Instr) (f : StatusReg) : (i.flagsAfter f).err = f.err := by
  cases i <;> rfl

/-- Settles O19: a step's cases, and each command's three outcomes. -/
theorem validFlagsChangeOnlyAsListed : Obligations.ValidFlagsChangeOnlyAsListed := by
  refine ⟨fun s t h => ?_, fun i s t h he => ?_⟩
  · cases stepCase_of_step h with
    | idle h => exact .inl (h ▸ ⟨rfl, rfl, rfl, rfl⟩)
    | command x i hx hd h => exact .inr (.inl ⟨x, i, hx, hd, h⟩)
    | illegal x _ h => exact .inl (h ▸ ⟨rfl, rfl, rfl, rfl⟩)
    | reset b rest ha h => exact .inr (.inr ⟨b, rest, ha, h ▸ ⟨rfl, rfl, rfl, rfl⟩⟩)
    | read v n h => exact .inl (h ▸ ⟨rfl, rfl, rfl, rfl⟩)
    | write w a v tgt off _ _ h => exact .inl (h ▸ writeTarget_flags s.takeEvent tgt off w v)
  · obtain ⟨rfl, hst⟩ | hst | ⟨hi, hst⟩ := exec_status h
    · simp [hst, State.reset]
    · have hi : i ≠ .srst := by
        rintro rfl
        rw [(execSrst_next s t).1 h] at hst
        cases congrArg StatusReg.err hst
      simp [hst, hi]
    · have het : t.status.err = false := by rw [hst]; exact (flagsAfter_err i _).trans he
      rw [het, hst]
      cases i <;> simp_all [Instr.flagsAfter]

end Sys2Proof.Machine
end

section
/-! PROOFS. The penalty of a square matrix lies below R333's bound, term by term. -/

namespace Sys2Proof.Machine

/-! N1: a line of n cells has at most n − 2 points (R325). -/

theorem runs_length_sum (L : List Bool) : ((runs L).map Prod.snd).sum = L.length := by
  induction L with
  | nil => rfl
  | cons b bs ih =>
    unfold runs
    cases h : runs bs with
    | nil => rw [List.length_cons, ← ih, h]; rfl
    | cons t rest =>
      rw [List.length_cons, ← ih, h]
      simp only [List.map_cons, List.sum_cons]
      split_ifs <;> simp <;> omega

theorem runPoints_le (rs : List (Bool × Nat)) :
    (rs.map fun t => if 5 ≤ t.2 then 3 + t.2 - 5 else 0).sum ≤ (rs.map Prod.snd).sum - 2 := by
  induction rs with
  | nil => simp
  | cons t rs ih =>
    simp only [List.map_cons, List.sum_cons]
    split_ifs <;> omega

theorem n1Line_le (L : List Bool) : n1Line L ≤ L.length - 2 := by
  rw [← runs_length_sum]
  exact runPoints_le _

/-! N3: a pattern's centre is a dark run, and at most every other run is dark (R327). -/

/-- A line that starts dark may have one dark run more than it has light ones; no run is empty. -/
theorem two_mul_darkRuns_le (L : List Bool) :
    2 * (runs L).countP Prod.fst ≤ L.length + (if (runs L).head?.map Prod.fst = some true then 1 else 0) := by
  induction L with
  | nil => simp [runs]
  | cons b bs ih =>
    unfold runs
    cases h : runs bs with
    | nil => cases b <;> simp
    | cons t rest =>
      rw [h] at ih
      obtain ⟨c, n⟩ := t
      cases b <;> cases c <;> simp at ih ⊢ <;> omega

theorem finderLike_dark (before : List (Bool × Nat)) (t : Bool × Nat) (after : List (Bool × Nat))
    (h : finderLike before t after = true) : t.1 = true := by
  unfold finderLike at h
  split at h
  · simp only [Bool.and_eq_true] at h
    tauto
  · cases h

theorem patternCount_le_darkRuns (before rs : List (Bool × Nat)) : patternCount before rs ≤ rs.countP Prod.fst := by
  induction rs generalizing before with
  | nil => simp [patternCount]
  | cons t after ih =>
    have hrest := ih (t :: before)
    have hdark := finderLike_dark before t after
    rw [patternCount, List.countP_cons]
    cases hf : finderLike before t after
    · rw [if_neg (by simp)]
      omega
    · rw [if_pos rfl, if_pos (hdark hf)]
      omega

theorem n3Line_le (L : List Bool) : n3Line L ≤ 40 * ((L.length + 1) / 2) := by
  have h1 := patternCount_le_darkRuns [] (runs L)
  have h2 := two_mul_darkRuns_le L
  have h3 : patternCount [] (runs L) ≤ (L.length + 1) / 2 := by
    split_ifs at h2 <;> omega
  exact Nat.mul_le_mul_left 40 h3

/-! N2: h rows of w cells have at most (h − 1)(w − 1) windows (R326). -/

theorem blocksIn_le (a b : List Bool) : blocksIn a b ≤ a.length - 1 := by
  induction a generalizing b with
  | nil => simp [blocksIn]
  | cons x as ih =>
    match as, b with
    | [], _ => simp [blocksIn]
    | y :: as, [] => simp [blocksIn]
    | y :: as, [c] => simp [blocksIn]
    | y :: as, c :: d :: cs =>
      have := ih (d :: cs)
      rw [blocksIn]
      simp only [List.length_cons] at this ⊢
      split_ifs <;> omega

theorem blockCount_le {w : Nat} {S : List (List Bool)} (hS : ∀ row ∈ S, row.length = w) :
    blockCount S ≤ (S.length - 1) * (w - 1) := by
  induction S with
  | nil => simp [blockCount]
  | cons a rest ih =>
    have hrest := ih fun row hr => hS row (List.mem_cons_of_mem _ hr)
    cases rest with
    | nil => simp [blockCount]
    | cons b rest =>
      have ha : blocksIn a b ≤ w - 1 := hS a (by simp) ▸ blocksIn_le a b
      rw [blockCount, List.length_cons, Nat.add_sub_cancel]
      rw [List.length_cons, Nat.add_sub_cancel] at hrest
      rw [List.length_cons, Nat.succ_mul]
      omega

/-! The lines of a square matrix (R323). -/

/-- S has w rows of w cells. -/
def isSquare (w : Nat) (S : List (List Bool)) : Prop := S.length = w ∧ ∀ row ∈ S, row.length = w

theorem columns_spec {w : Nat} {S : List (List Bool)} (hS : ∀ row ∈ S, row.length = w) :
    (columns w S).length = w ∧ ∀ col ∈ columns w S, col.length = S.length := by
  induction S with
  | nil => simp [columns]
  | cons row S ih =>
    obtain ⟨hlen, hcols⟩ := ih fun r hr => hS r (List.mem_cons_of_mem _ hr)
    have hrow := hS row (by simp)
    have hcons : columns w (row :: S) = List.zipWith (· :: ·) row (columns w S) := rfl
    rw [hcons]
    refine ⟨by simp [hlen, hrow], fun col hc => ?_⟩
    obtain ⟨i, hi, rfl⟩ := List.mem_iff_getElem.1 hc
    simp only [List.getElem_zipWith, List.length_cons]
    rw [hcols _ (List.getElem_mem _)]

theorem linesOf_spec {w : Nat} {S : List (List Bool)} (hS : isSquare w S) :
    (linesOf w S).length = w + w ∧ ∀ L ∈ linesOf w S, L.length = w := by
  obtain ⟨hlen, hrows⟩ := hS
  obtain ⟨hclen, hcols⟩ := columns_spec hrows
  refine ⟨by rw [linesOf, List.length_append, hlen, hclen], fun L hL => ?_⟩
  obtain h | h := List.mem_append.1 hL
  · exact hrows L h
  · rw [hcols L h, hlen]

/-- A score over the lines of a square matrix, bounded line by line. -/
theorem lineScore_le {w n : Nat} {S : List (List Bool)} (hS : isSquare w S) (f : List Bool → Nat)
    (hf : ∀ L, L.length = w → f L ≤ n) : ((linesOf w S).map f).sum ≤ (w + w) * n := by
  obtain ⟨hlen, hlines⟩ := linesOf_spec hS
  have h := List.sum_le_card_nsmul ((linesOf w S).map f) n fun x hx => by
    obtain ⟨L, hL, rfl⟩ := List.mem_map.1 hx
    exact hf L (hlines L hL)
  rwa [List.length_map, hlen, smul_eq_mul] at h

/-! The four terms and their sum (R333). -/

theorem penaltyN1_le {w : Nat} {S : List (List Bool)} (hS : isSquare w S) : penaltyN1 w S ≤ (w + w) * (w - 2) :=
  lineScore_le hS n1Line fun L hL => hL ▸ n1Line_le L

theorem penaltyN2_le {w : Nat} {S : List (List Bool)} (hS : isSquare w S) :
    penaltyN2 S ≤ 3 * ((w - 1) * (w - 1)) := by
  obtain ⟨hlen, hrows⟩ := hS
  have := blockCount_le hrows
  rw [hlen] at this
  exact Nat.mul_le_mul_left 3 this

theorem penaltyN3_le {w : Nat} {S : List (List Bool)} (hS : isSquare w S) :
    penaltyN3 w S ≤ (w + w) * (40 * ((w + 1) / 2)) :=
  lineScore_le hS n3Line fun L hL => hL ▸ n3Line_le L

theorem darkCount_le {w : Nat} {S : List (List Bool)} (hS : isSquare w S) : darkCount S ≤ w * w := by
  obtain ⟨hlen, hrows⟩ := hS
  have h := List.sum_le_card_nsmul (S.map fun row => row.count true) w fun x hx => by
    obtain ⟨row, hr, rfl⟩ := List.mem_map.1 hx
    exact hrows row hr ▸ List.count_le_length
  rwa [List.length_map, hlen, smul_eq_mul] at h

theorem penaltyN4_le {w : Nat} {S : List (List Bool)} (hS : isSquare w S) : penaltyN4 w S ≤ 100 := by
  have hp : darkPercent w S ≤ 100 := by
    refine Nat.div_le_of_le_mul ?_
    rw [Nat.mul_comm]
    exact Nat.mul_le_mul_right 100 (darkCount_le hS)
  unfold penaltyN4 absDiff
  omega

/-- R333: the penalty of a symbol of any version. -/
theorem penalty_lt {w : Nat} {S : List (List Bool)} (hS : isSquare w S) (hw : w ≤ 177) : penalty w S < 1415219 := by
  have h1 : penaltyN1 w S ≤ (177 + 177) * 175 :=
    (penaltyN1_le hS).trans (Nat.mul_le_mul (by omega) (by omega))
  have h2 : penaltyN2 S ≤ 3 * (176 * 176) :=
    (penaltyN2_le hS).trans (Nat.mul_le_mul_left 3 (Nat.mul_le_mul (by omega) (by omega)))
  have h3 : penaltyN3 w S ≤ (177 + 177) * (40 * 89) :=
    (penaltyN3_le hS).trans (Nat.mul_le_mul (by omega) (by omega))
  have h4 := penaltyN4_le hS
  unfold penalty
  omega

theorem symRows_isSquare (w : Nat) (lvl : Level) (m : Fin 8) (rows : List (List Cell)) :
    isSquare w (symRows w lvl m rows) := by
  refine ⟨by simp [symRows], fun row hr => ?_⟩
  obtain ⟨r, -, rfl⟩ := List.mem_map.1 hr
  simp

end Sys2Proof.Machine
end

section
/-! PROOFS. The whole invariant (O20, O23). First what each result buffer holds after the command that builds it, then
that every effect keeps the promises of the valid flags. -/

namespace Sys2Proof.Machine

/-! Versions (R220, R221). -/

theorem legalVersion_iff (v : Nat) : legalVersion v = true ↔ 1 ≤ v ∧ v ≤ 40 := by
  simp [legalVersion]

theorem symbolWidth_le {v : Nat} (hv : legalVersion v = true) : symbolWidth v ≤ 177 := by
  have := (legalVersion_iff v).1 hv
  unfold symbolWidth
  omega

/-- Data and parity together are the symbol's codewords, and they fit in SEQ (R222). -/
theorem codewords_of_version {v : Nat} (hv : legalVersion v = true) (lvl : Level) :
    dataCodewords v lvl + ((blockPlan v lvl).n1 + (blockPlan v lvl).n2) * (blockPlan v lvl).e = totalCodewords v ∧
      totalCodewords v ≤ 4096 := by
  obtain ⟨h1, h2⟩ := (legalVersion_iff v).1 hv
  interval_cases v <;> cases lvl <;> decide

/-! The interleaved sequence has T codewords (R223, R224). -/

theorem roundRobin_length (rounds : Nat) (blocks : List (List Byte)) :
    (roundRobin rounds blocks).length = (blocks.map fun blk => min rounds blk.length).sum := by
  induction rounds with
  | zero => simp [roundRobin]
  | succ n ih =>
    have hround : (blocks.filterMap fun blk => blk[n]?).length + (blocks.map fun blk => min n blk.length).sum =
        (blocks.map fun blk => min (n + 1) blk.length).sum := by
      clear ih
      induction blocks with
      | nil => rfl
      | cons blk blocks ih =>
        rw [List.filterMap_cons]
        by_cases h : n < blk.length
        · rw [List.getElem?_eq_getElem h]
          simp only [List.length_cons, List.map_cons, List.sum_cons]
          omega
        · rw [List.getElem?_eq_none (by omega)]
          simp only [List.map_cons, List.sum_cons]
          omega
    rw [roundRobin] at ih ⊢
    rw [List.range_succ, List.flatMap_append, List.length_append, ih, List.flatMap_singleton]
    omega

/-- When the rounds are enough for every block, every codeword is taken. -/
theorem roundRobin_length_of_le (rounds : Nat) (blocks : List (List Byte))
    (h : ∀ blk ∈ blocks, blk.length ≤ rounds) :
    (roundRobin rounds blocks).length = (blocks.map List.length).sum := by
  rw [roundRobin_length]
  congr 1
  exact List.map_congr_left fun blk hb => Nat.min_eq_right (h blk hb)

theorem cutBlocks_map_length (ns : List Nat) (d : List Byte) (h : ns.sum ≤ d.length) :
    (cutBlocks ns d).map List.length = ns := by
  induction ns generalizing d with
  | nil => rfl
  | cons n ns ih =>
    rw [List.sum_cons] at h
    rw [cutBlocks, List.map_cons, ih _ (by rw [List.length_drop]; omega), List.length_take, Nat.min_eq_left (by omega)]

theorem mem_lengths_le (b : Blocks) : ∀ n ∈ b.lengths, n ≤ b.k1 + 1 := by
  intro n hn
  simp only [Blocks.lengths, List.mem_append, List.mem_replicate] at hn
  omega

theorem codewordSequence_length (b : Blocks) (d : List Byte) (hd : d.length = b.dataCodewords) :
    (codewordSequence b d).length = b.dataCodewords + (b.n1 + b.n2) * b.e := by
  have hlens := cutBlocks_map_length b.lengths d (by simp [hd])
  have hdata : (roundRobin (b.k1 + 1) (cutBlocks b.lengths d)).length = b.dataCodewords := by
    rw [roundRobin_length_of_le, hlens, blocks_lengths_sum]
    exact fun blk hb => mem_lengths_le b _ (hlens ▸ List.mem_map_of_mem hb)
  have hparity : (roundRobin b.e ((cutBlocks b.lengths d).map fun blk => rsParity blk b.e)).length =
      (b.n1 + b.n2) * b.e := by
    rw [roundRobin_length]
    simp [Function.comp_def, cutBlocks_length]
  rw [codewordSequence, List.length_append, hdata, hparity]

theorem readData_length {s : State} {off n : Nat} {d : List Byte} (hs : s.dbuf.wf = true)
    (h : readData s off n = some d) : d.length = n :=
  ((Memory.readRun_eq_some_iff _ hs _ _ _).1 h).1

/-- A run that was just written reads back whole. -/
theorem readRun_writeRun {α : Type} (m : Memory α) (hm : m.wf = true) (a : Nat) (vs : List α) :
    (m.writeRun a vs).readRun a vs.length = some vs := by
  refine (Memory.readRun_eq_some_iff _ (Memory.wf_writeRun m hm a vs) _ _ _).2 ⟨rfl, fun i hi => ?_⟩
  rw [Memory.read_writeRun m hm, if_pos (by omega), Nat.add_sub_cancel_left]

/-! The traversal visits every EMPTY cell of a fresh frame (R283). -/

/-- The column pairs cover every column but the timing column. -/
theorem exists_rightColumn (fuel right c : Nat) (hf : right ≤ fuel) (hc : c ≤ right)
    (hr : (right % 2 = 0 ∧ 6 ≤ right ∧ c ≠ 6) ∨ (right % 2 = 1 ∧ right ≤ 5)) :
    ∃ x ∈ rightColumns fuel right, c = x ∨ c + 1 = x := by
  induction fuel generalizing right with
  | zero => omega
  | succ fuel ih =>
    rw [rightColumns, if_neg (by omega)]
    simp only [List.exists_mem_cons_iff]
    by_cases h : c = (if right = 6 then 5 else right) ∨ c + 1 = (if right = 6 then 5 else right)
    · exact .inl h
    · refine .inr (ih _ ?_ ?_ ?_) <;> split_ifs at h ⊢ <;> omega

theorem mem_pairCells {w right y x : Nat} (hy : y < w) (hx : x = right ∨ x + 1 = right) :
    (y, x) ∈ pairCells w right := by
  have hcol : (y, x) ∈ [(y, right), (y, right - 1)] := by
    obtain rfl | rfl := hx <;> simp
  refine List.mem_flatMap.2 ⟨if (right + 1) &&& 2 = 0 then w - 1 - y else y, ?_, ?_⟩
  · rw [List.mem_range]
    split_ifs <;> omega
  · split_ifs with h
    · simpa [h, show w - 1 - (w - 1 - y) = y by omega] using hcol
    · simpa [h] using hcol

/-- The traversal of a frame visits every EMPTY cell outside the timing column. -/
theorem mem_order_gridRows {v y x : Nat} (F : Nat → Nat → Cell) (hv : 1 ≤ v) (hy : y < symbolWidth v)
    (hx : x < symbolWidth v) (h6 : x ≠ 6) (hE : (F y x).kind = .empty) :
    (y, x) ∈ order (symbolWidth v) (gridRows (symbolWidth v) F) := by
  have hw : symbolWidth v = 17 + 4 * v := rfl
  obtain ⟨right, hr, hx⟩ := exists_rightColumn (symbolWidth v) (symbolWidth v - 1) x (by omega) (by omega)
    (.inl (by omega))
  rw [order_gridRows]
  exact List.mem_flatMap.2 ⟨right, hr, List.mem_filter.2 ⟨mem_pairCells hy hx, by simp [hE]⟩⟩

/-- It visits EMPTY cells of the frame only. -/
theorem of_mem_order_gridRows {w : Nat} {F : Nat → Nat → Cell} {p : Nat × Nat} (hw : 1 ≤ w)
    (h : p ∈ order w (gridRows w F)) : p.1 < w ∧ p.2 < w ∧ (F p.1 p.2).kind = .empty := by
  rw [order_gridRows] at h
  obtain ⟨right, hr, hp⟩ := List.mem_flatMap.1 h
  obtain ⟨hp, hE⟩ := List.mem_filter.1 hp
  have hright := rightColumns_lt _ _ right hr
  obtain ⟨h1, h2⟩ := mem_pairCells_lt w right (by omega) p hp
  exact ⟨h1, h2, by simpa using hE⟩

/-! The timing column of a fresh frame holds no EMPTY cell (R271, R272, R274). -/

/-- A drawing step writes no EMPTY cell. -/
def drawsNoEmpty (o : Option Cell) : Bool := o.all fun cell => cell.kind != .empty

theorem drawsNoEmpty_or {a b : Option Cell} (ha : drawsNoEmpty a = true) (hb : drawsNoEmpty b = true) :
    drawsNoEmpty (a.or b) = true := by
  cases a
  · exact hb
  · exact ha

theorem eq_none_of_getD_empty {o : Option Cell} (ho : drawsNoEmpty o = true)
    (h : (o.getD emptyCell).kind = .empty) : o = none := by
  cases o with
  | none => rfl
  | some cell => exact absurd h (by simpa [drawsNoEmpty] using ho)

theorem drawsNoEmpty_finderAt (r0 c0 r c : Nat) : drawsNoEmpty (finderAt r0 c0 r c) = true := by
  unfold finderAt; split <;> rfl

theorem drawsNoEmpty_drawFinders (w r c : Nat) : drawsNoEmpty (drawFinders w r c) = true :=
  drawsNoEmpty_or (drawsNoEmpty_finderAt ..) (drawsNoEmpty_or (drawsNoEmpty_finderAt ..) (drawsNoEmpty_finderAt ..))

theorem drawsNoEmpty_drawSeparators (w r c : Nat) : drawsNoEmpty (drawSeparators w r c) = true := by
  unfold drawSeparators; split <;> rfl

theorem drawsNoEmpty_drawFormatReserve (w r c : Nat) : drawsNoEmpty (drawFormatReserve w r c) = true := by
  unfold drawFormatReserve; split <;> rfl

theorem drawsNoEmpty_drawTiming (w r c : Nat) : drawsNoEmpty (drawTiming w r c) = true := by
  unfold drawTiming; split_ifs <;> rfl

theorem drawsNoEmpty_drawAlignment (v r c : Nat) : drawsNoEmpty (drawAlignment v r c) = true := by
  unfold drawAlignment
  split
  · split <;> rfl
  · rfl

theorem drawsNoEmpty_drawVersion (v r c : Nat) : drawsNoEmpty (drawVersion v r c) = true := by
  unfold drawVersion; dsimp only; split_ifs <;> rfl

theorem drawsNoEmpty_drawDark (w r c : Nat) : drawsNoEmpty (drawDark w r c) = true := by
  unfold drawDark; split <;> rfl

/-- A cell of the frame is EMPTY only where no drawing step writes (R279). -/
theorem draws_none_of_empty {v r c : Nat} (hr : r < symbolWidth v) (hc : c < symbolWidth v)
    (h : (drawnCell v r c).kind = .empty) : drawTiming (symbolWidth v) r c = none ∧
      drawSeparators (symbolWidth v) r c = none ∧ drawFinders (symbolWidth v) r c = none := by
  simp only [drawnCell, hr, hc, and_self, if_true] at h
  have hnone := eq_none_of_getD_empty
    (drawsNoEmpty_or (drawsNoEmpty_drawDark ..) (drawsNoEmpty_or (drawsNoEmpty_drawVersion ..)
      (drawsNoEmpty_or (drawsNoEmpty_drawAlignment ..) (drawsNoEmpty_or (drawsNoEmpty_drawTiming ..)
        (drawsNoEmpty_or (drawsNoEmpty_drawFormatReserve ..) (drawsNoEmpty_or (drawsNoEmpty_drawSeparators ..)
          (drawsNoEmpty_drawFinders ..))))))) h
  simp only [Option.or_eq_none_iff] at hnone
  obtain ⟨-, -, -, ht, -, hs, hf⟩ := hnone
  exact ⟨ht, hs, hf⟩

theorem timingColumn_not_empty {v r : Nat} (hv : 1 ≤ v) (hr : r < symbolWidth v) :
    (drawnCell v r 6).kind ≠ .empty := by
  intro h
  have hw : symbolWidth v = 17 + 4 * v := rfl
  obtain ⟨ht, hs, hf⟩ := draws_none_of_empty hr (by omega) h
  have hrows : ¬ (8 ≤ r ∧ r ≤ symbolWidth v - 9) := fun h => by simp [drawTiming, h] at ht
  have hsep : r ≠ 7 ∧ r ≠ symbolWidth v - 8 := by
    constructor <;> rintro rfl <;> simp [drawSeparators] at hs
  have hfind : ¬ r ≤ 6 ∧ ¬ symbolWidth v - 7 ≤ r := by
    simp only [drawFinders, finderAt, Option.or_eq_none_iff, ite_eq_right_iff, reduceCtorEq, imp_false] at hf
    omega
  omega

/-! PLACE's writes (R285). -/

/-- A run of writes comes from the traversal's cells and writes DATA cells. -/
theorem mem_placements {cells : List (Nat × Nat)} {bits : List Bool} {e : Nat × Cell}
    (h : e ∈ placements cells bits) : (∃ p ∈ cells, e.1 = 256 * p.1 + p.2) ∧ e.2.kind = .data := by
  obtain ⟨i, hi, rfl⟩ := List.mem_iff_getElem.1 h
  simp only [placements, List.getElem_zipWith, and_true]
  exact ⟨_, List.getElem_mem _, rfl⟩

theorem exists_mem_placements {cells : List (Nat × Nat)} {bits : List Bool} (hl : cells.length = bits.length)
    {p : Nat × Nat} (hp : p ∈ cells) : ∃ e ∈ placements cells bits, e.1 = 256 * p.1 + p.2 := by
  obtain ⟨i, hi, rfl⟩ := List.mem_iff_getElem.1 hp
  have hi' : i < (placements cells bits).length := by simp [placements]; omega
  exact ⟨_, List.getElem_mem hi', by simp [placements]⟩

/-- An index that is listed reads as one of its entries. -/
theorem Memory.exists_read_of_mem {α : Type} {m : Memory α} {e : Nat × α} (h : e ∈ m) :
    ∃ v, m.read e.1 = some v ∧ (e.1, v) ∈ m := by
  cases hr : m.read e.1 with
  | some v => exact ⟨v, rfl, Memory.mem_of_read_eq_some m _ v hr⟩
  | none =>
    exfalso
    induction m with
    | nil => cases h
    | cons e' m ih =>
      rw [Memory.read_cons] at hr
      split_ifs at hr with hk
      obtain rfl | h := List.mem_cons.1 h
      · exact hk rfl
      · exact ih h hr

/-- A list of writes leaves only its own entries and old ones. -/
theorem Memory.mem_writeAll {α : Type} {m : Memory α} (hm : m.wf = true) {ws : List (Nat × α)} {e : Nat × α}
    (h : e ∈ m.writeAll ws) : e ∈ ws ∨ e ∈ m := by
  have hr := Memory.read_eq_some_of_mem _ (Memory.wf_writeAll m hm ws) e.1 e.2 h
  rw [Memory.read_writeAll m hm, Option.or_eq_some_iff] at hr
  obtain hr | ⟨-, hr⟩ := hr
  · exact .inl (List.mem_reverse.1 (Memory.mem_of_read_eq_some _ _ _ hr))
  · exact .inr (Memory.mem_of_read_eq_some _ _ _ hr)

/-- After PLACE's writes a visited cell is DATA. -/
theorem read_placed {m : Memory Cell} (hm : m.wf = true) {cells : List (Nat × Nat)} {bits : List Bool}
    (hl : cells.length = bits.length) {p : Nat × Nat} (hp : p ∈ cells) :
    ∃ cell, (m.writeAll (placements cells bits)).read (256 * p.1 + p.2) = some cell ∧ cell.kind = .data := by
  obtain ⟨e, he, hidx⟩ := exists_mem_placements hl hp
  obtain ⟨cell, hcell, hmem⟩ := Memory.exists_read_of_mem (List.mem_reverse.2 he)
  rw [Memory.read_writeAll m hm, ← hidx, hcell]
  exact ⟨cell, rfl, (mem_placements (List.mem_reverse.1 hmem)).2⟩

/-- After PLACE's writes every other entry is what it was. -/
theorem read_not_placed {m : Memory Cell} (hm : m.wf = true) {cells : List (Nat × Nat)} {bits : List Bool} {a : Nat}
    (ha : ∀ p ∈ cells, a ≠ 256 * p.1 + p.2) : (m.writeAll (placements cells bits)).read a = m.read a := by
  rw [Memory.read_writeAll m hm, Memory.read_eq_none_of_forall_ne, Option.none_or]
  intro e he hea
  obtain ⟨⟨p, hp, hidx⟩, -⟩ := mem_placements (List.mem_reverse.1 he)
  exact ha p hp (hea ▸ hidx)

/-! The buffers' bounds (R30). -/

theorem inBounds_iff (s : State) : s.inBounds = true ↔
    s.dbuf.below 4096 = true ∧ s.seq.below 4096 = true ∧ s.pbuf.below 256 = true ∧
      (∀ e ∈ s.frame, gridIndex e.1 = true) ∧ ∀ e ∈ s.matrix, gridIndex e.1 = true := by
  simp [State.inBounds, and_assoc]

theorem gridIndex_cell {r c : Nat} (hr : r < 177) (hc : c < 177) : gridIndex (256 * r + c) = true := by
  simp only [gridIndex, Bool.and_eq_true, decide_eq_true_eq]
  omega

theorem gridIndex_of_mem_ofGrid {α : Type} {f : Nat → Nat → α} {e : Nat × α} (h : e ∈ Memory.ofGrid f) :
    gridIndex e.1 = true := by
  obtain ⟨r, c, hr, hc, rfl⟩ := (Memory.mem_ofGrid f e).1 h
  exact gridIndex_cell hr hc

theorem rowOf_some {a n : Nat} {row : MapRow} (h : rowOf a n = some row) :
    row ∈ memoryMap ∧ row.base ≤ a ∧ a + n ≤ row.base + row.size := by
  refine ⟨List.mem_of_find?_eq_some h, ?_⟩
  simpa using List.find?_some h

/-- A legal access stays inside one row of the map (R102). -/
theorem legalAccess_some {isWrite : Bool} {w : Width} {a : Addr} {t : Target} {off : Nat}
    (h : legalAccess isWrite w a = some (t, off)) :
    ∃ row ∈ memoryMap, row.target = t ∧ off + w.bytes ≤ row.size := by
  unfold legalAccess at h
  split_ifs at h
  split at h
  · cases h
  · rename_i row hrow
    split_ifs at h
    obtain ⟨htgt, rfl⟩ := Prod.mk.inj (Option.some.inj h)
    obtain ⟨hmem, hbase, hend⟩ := rowOf_some hrow
    exact ⟨row, hmem, htgt, by omega⟩

/-- A legal access to DBUF stays inside it (R101). -/
theorem legalAccess_dbuf_bound {isWrite : Bool} {w : Width} {a : Addr} {off : Nat}
    (h : legalAccess isWrite w a = some (.dbuf, off)) : off + w.bytes ≤ 4096 := by
  have hsize : ∀ row ∈ memoryMap, row.target = .dbuf → row.size = 4096 := by decide
  obtain ⟨row, hmem, htgt, hend⟩ := legalAccess_some h
  exact hsize row hmem htgt ▸ hend

/-! What every effect keeps: the results are sound. -/

/-- The part of the invariant that speaks of the result registers and buffers. -/
structure State.ResultsSound (s : State) : Prop where
  memoryWf : s.memoryWf = true
  inBounds : s.inBounds = true
  flags : s.FlagsHonest
  penalties : s.penaltiesBounded

/-! Each effect keeps the results sound. -/

theorem reset_resultsSound : State.reset.ResultsSound where
  memoryWf := rfl
  inBounds := rfl
  flags := by constructor <;> intro h <;> cases h
  penalties := fun m => .inl (by simp [State.reset, notEvaluated])

/-- The results are sound whatever stands in the rest of the state, DBUF apart. -/
theorem State.ResultsSound.outside {s : State} (hs : s.ResultsSound) {config : ConfigReg} {lastCmd : Word}
    {done err ovr : Bool} {errinfo : ErrInfoReg} {rsSrc : BitVec 12} {bchOut : BitVec 18} {inflight : Option Word}
    {agenda : List Event} {resetPin : Bool} {response : Response} {freeCount : Nat} :
    State.ResultsSound { s with
      config := config, lastCmd := lastCmd, status := { s.status with done := done, err := err, ovr := ovr }
      errinfo := errinfo, rsSrc := rsSrc, bchOut := bchOut, inflight := inflight, agenda := agenda
      resetPin := resetPin, response := response, freeCount := freeCount } :=
  ⟨hs.memoryWf, hs.inBounds, ⟨hs.flags.seqv, hs.flags.frmv, hs.flags.plcd, hs.flags.matv⟩, hs.penalties⟩

/-- A frame that is built and not placed is the fresh frame of its version. -/
theorem State.FlagsHonest.frame_eq {s : State} (h : s.FlagsHonest) (hf : s.status.frmv = true)
    (hp : s.status.plcd = false) {r c : Nat} (hr : r < 177) (hc : c < 177) :
    s.frame.read (256 * r + c) = some (drawnCell s.frameVersion r c) := by
  obtain ⟨-, hcells⟩ := h.frmv hf
  obtain ⟨cell, hread, hcell⟩ := hcells r c hr hc
  simp only [cellOfFrame, hp, Bool.false_eq_true, false_and, if_false] at hcell
  rw [hread, hcell]

theorem rsenc_resultsSound {s : State} {k nr : Nat} (d : List Byte) (hs : s.ResultsSound)
    (hc : badRsOperands k nr s.rsSrc.toNat = false) :
    State.ResultsSound { s with pbuf := s.pbuf.writeRun 0 (rsParity d nr) } := by
  obtain ⟨hd, hq, hp, hf, hm⟩ := (memoryWf_iff s).1 hs.memoryWf
  obtain ⟨bd, bq, bp, bf, bm⟩ := (inBounds_iff s).1 hs.inBounds
  have hnr : 0 + (rsParity d nr).length ≤ 256 := by
    simp only [badRsOperands, Bool.or_eq_false_iff, decide_eq_false_iff_not] at hc
    rw [rsParity_length]
    omega
  exact {
    memoryWf := (memoryWf_iff _).2 ⟨hd, hq, Memory.wf_writeRun _ hp _ _, hf, hm⟩
    inBounds := (inBounds_iff _).2 ⟨bd, bq, Memory.below_writeRun _ hp _ _ _ bp hnr, bf, bm⟩
    flags := ⟨hs.flags.seqv, hs.flags.frmv, hs.flags.plcd, hs.flags.matv⟩
    penalties := hs.penalties }

theorem eccbldBody_resultsSound {s u : State} (hs : s.ResultsSound) (hv : legalVersion s.version = true)
    (h : eccbldBody s = .next u) : u.ResultsSound := by
  have hwf := eccbldBody_memoryWf h hs.memoryWf
  obtain ⟨d, hd, rfl⟩ := (eccbldBody_next s u).1 h
  obtain ⟨wd, wq, -, -, -⟩ := (memoryWf_iff s).1 hs.memoryWf
  obtain ⟨bd, bq, bp, bf, bm⟩ := (inBounds_iff s).1 hs.inBounds
  obtain ⟨hcount, hT⟩ := codewords_of_version hv s.config.level
  have hlen : (codewordSequence (blockPlan s.version s.config.level) d).length = totalCodewords s.version :=
    (codewordSequence_length _ d (readData_length wd hd)).trans hcount
  exact {
    memoryWf := hwf
    inBounds := (inBounds_iff _).2 ⟨bd, Memory.below_writeRun _ wq _ _ _ bq (by omega), bp, bf, bm⟩
    flags := {
      seqv := fun _ => ⟨hv, rfl, d, readData_length wd hd, by
        show (s.seq.writeRun 0 _).readRun 0 (totalCodewords s.version) = _
        rw [← hlen, readRun_writeRun _ wq]; rfl⟩
      frmv := hs.flags.frmv
      plcd := hs.flags.plcd
      matv := hs.flags.matv }
    penalties := hs.penalties }

theorem frminitBody_resultsSound {s u : State} (hs : s.ResultsSound) (hv : legalVersion s.version = true)
    (h : frminitBody s = .next u) : u.ResultsSound := by
  have hwf := frminitBody_memoryWf h hs.memoryWf
  obtain rfl := (frminitBody_next s u).1 h
  obtain ⟨bd, bq, bp, -, bm⟩ := (inBounds_iff s).1 hs.inBounds
  exact {
    memoryWf := hwf
    inBounds := (inBounds_iff _).2 ⟨bd, bq, bp, fun e he => gridIndex_of_mem_ofGrid he, bm⟩
    flags := {
      seqv := hs.flags.seqv
      frmv := fun _ => ⟨hv, fun r c hr hc => ⟨_, Memory.read_ofGrid_cell _ r c hr hc, by
        simp [cellOfFrame]; rfl⟩⟩
      plcd := fun h => by cases h
      matv := fun h => by cases h }
    penalties := fun m => .inl (by simp [noPenalties]) }

/-- PLACE turns exactly the EMPTY cells of the fresh frame into DATA cells (R36, R285). -/
theorem placed_cell {v : Nat} {m : Memory Cell} (hm : m.wf = true) (hv : legalVersion v = true) {bits : List Bool}
    (hread : ∀ r c, r < 177 → c < 177 → m.read (256 * r + c) = some (drawnCell v r c))
    (hl : (order (symbolWidth v) (gridRows (symbolWidth v) (drawnCell v))).length = bits.length)
    {r c : Nat} (hr : r < 177) (hc : c < 177) :
    ∃ cell, (m.writeAll (placements (order (symbolWidth v) (gridRows (symbolWidth v) (drawnCell v))) bits)).read
      (256 * r + c) = some cell ∧ cellOfFrame v true r c cell := by
  have hw := symbolWidth_le hv
  obtain ⟨hv1, -⟩ := (legalVersion_iff v).1 hv
  by_cases hE : r < symbolWidth v ∧ c < symbolWidth v ∧ (drawnCell v r c).kind = .empty
  · obtain ⟨hrw, hcw, hkind⟩ := hE
    have h6 : c ≠ 6 := by
      rintro rfl
      exact timingColumn_not_empty hv1 hrw hkind
    obtain ⟨cell, hcell, hdata⟩ := read_placed hm hl (mem_order_gridRows _ hv1 hrw hcw h6 hkind)
    exact ⟨cell, hcell, by simp [cellOfFrame, hrw, hcw, hkind, hdata]⟩
  · have hnot : ∀ p ∈ order (symbolWidth v) (gridRows (symbolWidth v) (drawnCell v)),
        256 * r + c ≠ 256 * p.1 + p.2 := by
      intro p hp heq
      obtain ⟨h1, h2, hkind⟩ := of_mem_order_gridRows (by unfold symbolWidth; omega) hp
      obtain ⟨rfl, rfl⟩ : r = p.1 ∧ c = p.2 := by omega
      exact hE ⟨h1, h2, hkind⟩
    exact ⟨_, (read_not_placed hm hnot).trans (hread r c hr hc), by simp [cellOfFrame, hE]⟩

theorem placeBody_resultsSound {s u : State} (hs : s.ResultsSound) (hf : s.status.frmv = true)
    (hp : s.status.plcd = false) (h : placeBody s = .next u) : u.ResultsSound := by
  have hwf := placeBody_memoryWf h hs.memoryWf
  obtain ⟨rows, seq, hrows, -, hl, rfl⟩ := (placeBody_next s u).1 h
  obtain ⟨-, -, -, wf, -⟩ := (memoryWf_iff s).1 hs.memoryWf
  obtain ⟨bd, bq, bp, bf, bm⟩ := (inBounds_iff s).1 hs.inBounds
  obtain ⟨hv, -⟩ := hs.flags.frmv hf
  have hw := symbolWidth_le hv
  have hread := fun r c hr hc => hs.flags.frame_eq hf hp (r := r) (c := c) hr hc
  have hfresh : readFrame s = some (gridRows s.frameWidth (drawnCell s.frameVersion)) :=
    readFrame_of_frameIs s _ wf fun r c hr hc => hread r c (hr.trans_le hw) (hc.trans_le hw)
  obtain rfl := Option.some.inj (hrows.symm.trans hfresh)
  have hgrid : ∀ e ∈ placements (order s.frameWidth (gridRows s.frameWidth (drawnCell s.frameVersion)))
      (placedBits s.frameVersion seq), gridIndex e.1 = true := by
    intro e he
    obtain ⟨⟨p, hp, hidx⟩, -⟩ := mem_placements he
    obtain ⟨h1, h2, -⟩ := of_mem_order_gridRows (by unfold State.frameWidth symbolWidth; omega) hp
    exact hidx ▸ gridIndex_cell (h1.trans_le hw) (h2.trans_le hw)
  exact {
    memoryWf := hwf
    inBounds := (inBounds_iff _).2 ⟨bd, bq, bp,
      fun e he => (Memory.mem_writeAll wf he).elim (hgrid e) (bf e), bm⟩
    flags := {
      seqv := hs.flags.seqv
      frmv := fun _ => ⟨hv, fun r c hr hc => placed_cell wf hv hread hl hr hc⟩
      plcd := fun _ => hf
      matv := fun hm => absurd (hs.flags.matv hm).1 (by simp [hp]) }
    penalties := hs.penalties }

/-- Showing the symbol of a placed frame makes MATV true of it (R36, R331). -/
theorem showSymbol_resultsSound {s : State} {rows : List (List Cell)} (m : Fin 8) (hs : s.ResultsSound)
    (hp : s.status.plcd = true) (hr : readFrame s = some rows) :
    (showSymbol (s.symbol rows m) m s).ResultsSound := by
  obtain ⟨bd, bq, bp, bf, -⟩ := (inBounds_iff s).1 hs.inBounds
  exact {
    memoryWf := showSymbol_memoryWf _ _ hs.memoryWf
    inBounds := (inBounds_iff _).2 ⟨bd, bq, bp, bf, fun e he => gridIndex_of_mem_ofGrid he⟩
    flags := {
      seqv := hs.flags.seqv
      frmv := hs.flags.frmv
      plcd := hs.flags.plcd
      matv := fun _ => ⟨hp, rows, hr, rfl⟩ }
    penalties := hs.penalties }

/-- A penalty file is bounded when each entry is. -/
def penBounded (pen : Vector Word 8) : Prop := ∀ m : Fin 8, pen[m] = notEvaluated ∨ pen[m].toNat < 1415219

theorem penBounded_set {pen : Vector Word 8} (hpen : penBounded pen) (m : Fin 8) {n : Nat} (hn : n < 1415219) :
    penBounded (pen.set m (BitVec.ofNat 32 n)) := by
  intro m'
  by_cases hm : m = m'
  · subst hm
    refine .inr ?_
    simp
    omega
  · have : (pen.set m (BitVec.ofNat 32 n))[m'] = pen[m'] := by
      simp [Fin.val_ne_of_ne hm]
    rw [this]
    exact hpen m'

theorem penBounded_penaltyFile (cands : List (Fin 8 × Nat)) (h : ∀ c ∈ cands, c.2 < 1415219) :
    penBounded (penaltyFile cands) := by
  have hfold : ∀ pen, penBounded pen →
      penBounded (cands.foldl (fun pen c => pen.set c.1 (BitVec.ofNat 32 c.2)) pen) := by
    induction cands with
    | nil => exact fun pen hpen => hpen
    | cons c cands ih =>
      exact fun pen hpen => ih (fun c hc => h c (List.mem_cons_of_mem _ hc)) _
        (penBounded_set hpen c.1 (h c (by simp)))
  exact hfold _ fun m => .inl (by simp [noPenalties])

theorem pen_resultsSound {s : State} {pen : Vector Word 8} (hs : s.ResultsSound) (hpen : penBounded pen) :
    State.ResultsSound { s with pen := pen } where
  memoryWf := hs.memoryWf
  inBounds := hs.inBounds
  flags := ⟨hs.flags.seqv, hs.flags.frmv, hs.flags.plcd, hs.flags.matv⟩
  penalties := hpen

/-- The penalties of a placed frame lie below R333's bound. -/
theorem maskPenalty_lt {s : State} (hs : s.ResultsSound) (hp : s.status.plcd = true) (rows : List (List Cell))
    (m : Fin 8) : s.maskPenalty rows m < 1415219 :=
  penalty_lt (symRows_isSquare ..) (symbolWidth_le (hs.flags.frmv (hs.flags.plcd hp)).1)

theorem mselBody_resultsSound {s u : State} (hs : s.ResultsSound) (hp : s.status.plcd = true)
    (h : mselBody s = .next u) : u.ResultsSound := by
  obtain ⟨rows, hr, hu⟩ := (mselBody_next s u).1 h
  have hpen : State.ResultsSound { s with pen := penaltyFile (s.candidates rows) } := by
    refine pen_resultsSound hs (penBounded_penaltyFile _ fun c hc => ?_)
    obtain ⟨m, -, rfl⟩ := List.mem_map.1 hc
    exact maskPenalty_lt hs hp rows m
  obtain ⟨-, rfl⟩ | ⟨best, -, rfl⟩ := hu
  · exact hpen
  · exact showSymbol_resultsSound best.1 hpen hp hr

theorem encodeBody_resultsSound {s u : State} (hs : s.ResultsSound) (hv : legalVersion s.version = true)
    (h : encodeBody s = .next u) : u.ResultsSound := by
  obtain ⟨u₁, u₂, u₃, h₁, h₂, h₃, h₄⟩ := (encodeBody_next s u).1 h
  have hv₁ : legalVersion u₁.version = true := by
    rwa [State.version, (eccbldBody_keepsInputs h₁).config]
  have hs₂ := frminitBody_resultsSound (eccbldBody_resultsSound hs hv h₁) hv₁ h₂
  have hs₃ := placeBody_resultsSound hs₂ (by rw [frminitBody_status h₂]) (by rw [frminitBody_status h₂]) h₃
  exact mselBody_resultsSound hs₃ (by rw [placeBody_status h₃]) h₄

/-- Once its check has passed, a command's effect keeps the results sound. -/
theorem effect_resultsSound {i : Instr} {s u : State} (hs : s.ResultsSound) (hc : i.check s = none)
    (h : i.Effect s u) : u.ResultsSound := by
  cases i with
  | nop => exact h ▸ hs
  | srst => cases h
  | fmtinfo | verinfo =>
    cases h
    exact hs.outside
  | rsenc k nr =>
    obtain ⟨d, -, rfl⟩ := h
    exact rsenc_resultsSound d hs (by simpa [Instr.check] using hc)
  | eccbld => exact eccbldBody_resultsSound hs (by simpa [Instr.check] using hc) h
  | frminit => exact frminitBody_resultsSound hs (by simpa [Instr.check] using hc) h
  | place =>
    have hready : s.cannotPlace = false := by simpa [Instr.check] using hc
    simp only [State.cannotPlace, Bool.or_eq_false_iff, Bool.not_eq_false'] at hready
    obtain ⟨⟨⟨-, hf⟩, hp⟩, -⟩ := hready
    exact placeBody_resultsSound hs hf hp h
  | mapply m =>
    obtain ⟨rows, hr, rfl⟩ := h
    exact showSymbol_resultsSound m hs (by simpa [Instr.check] using hc) hr
  | meval m =>
    obtain ⟨rows, hr, rfl⟩ := h
    have hp : s.status.plcd = true := by simpa [Instr.check] using hc
    exact pen_resultsSound hs (penBounded_set hs.penalties m (maskPenalty_lt hs hp rows m))
  | msel =>
    have hm := maskEn_ne_zero_of_check (.inl hc)
    rw [Instr.check, if_neg hm] at hc
    exact mselBody_resultsSound hs (by simpa using hc) h
  | encode =>
    refine encodeBody_resultsSound hs ?_ h
    cases hv : legalVersion s.version
    · simp [Instr.check, hv] at hc
    · rfl

/-! The whole invariant. -/

theorem exec_resultsSound {i : Instr} {s t : State} (hs : s.ResultsSound) (h : exec i s = .next t) :
    t.ResultsSound := by
  obtain ⟨-, rfl⟩ | ⟨e, -, rfl⟩ | ⟨-, hc, u, hu, rfl⟩ := exec_cases h
  · exact reset_resultsSound.outside
  · exact hs.outside
  · exact (effect_resultsSound hs hc hu).outside

theorem dbufWrite_resultsSound {s : State} {off : Nat} (bytes : List Byte) (hs : s.ResultsSound)
    (hb : off + bytes.length ≤ 4096) : State.ResultsSound { s with dbuf := s.dbuf.writeRun off bytes } := by
  obtain ⟨wd, wq, wp, wf, wm⟩ := (memoryWf_iff s).1 hs.memoryWf
  obtain ⟨bd, bq, bp, bf, bm⟩ := (inBounds_iff s).1 hs.inBounds
  exact {
    memoryWf := (memoryWf_iff _).2 ⟨Memory.wf_writeRun _ wd _ _, wq, wp, wf, wm⟩
    inBounds := (inBounds_iff _).2 ⟨Memory.below_writeRun _ wd _ _ _ bd hb, bq, bp, bf, bm⟩
    flags := ⟨hs.flags.seqv, hs.flags.frmv, hs.flags.plcd, hs.flags.matv⟩
    penalties := hs.penalties }

theorem writeTarget_resultsSound {s : State} {tgt : Target} {off : Nat} {w : Width} {a : Addr} (v : Word)
    (hs : s.ResultsSound) (hl : legalAccess true w a = some (tgt, off)) :
    (writeTarget s tgt off w v).ResultsSound := by
  obtain h | h | h | ⟨-, -, h⟩ | ⟨-, h⟩ | ⟨-, h⟩ | ⟨-, rfl, h⟩ := writeTarget_cases s tgt off w v <;> rw [h]
  case inr.inr.inr.inr.inr.inr =>
    exact dbufWrite_resultsSound _ hs (by simpa [bytesOf] using legalAccess_dbuf_bound hl)
  case inl => exact hs
  all_goals exact hs.outside

theorem writeTarget_resetPin (s : State) (tgt : Target) (off : Nat) (w : Width) (v : Word) :
    (writeTarget s tgt off w v).resetPin = s.resetPin := by
  obtain h | h | h | ⟨-, -, h⟩ | ⟨-, h⟩ | ⟨-, h⟩ | ⟨-, -, h⟩ := writeTarget_cases s tgt off w v <;> rw [h] <;> rfl

theorem exec_resetPin {i : Instr} {s t : State} (h : exec i s = .next t) : t.resetPin = s.resetPin := by
  obtain ⟨-, rfl⟩ | ⟨e, -, rfl⟩ | ⟨-, -, u, hu, rfl⟩ := exec_cases h
  · rfl
  · rfl
  · exact (effect_keepsInputs hu).resetPin

/-- While the reset input is asserted nothing is in flight (R450). -/
theorem heldInReset_released {s : State} (hs : s.heldInReset) {x : Word} (hx : s.inflight = some x) :
    s.resetPin = false := by
  cases hp : s.resetPin
  · rfl
  · rw [hs hp] at hx
    cases hx

theorem heldInReset_of_released {s : State} (h : s.resetPin = false) : s.heldInReset :=
  fun hp => by rw [h] at hp; cases hp

theorem State.Inv.resultsSound {s : State} (hs : s.Inv) : s.ResultsSound :=
  ⟨hs.memoryWf, hs.inBounds, hs.flags, hs.penalties⟩

/-- The invariant, put together from its three parts. -/
theorem inv_of_parts {s : State} (hr : s.ResultsSound) (hc : s.StatusConsistent) (hh : s.heldInReset) : s.Inv :=
  ⟨hr.memoryWf, hr.inBounds, hc, hh, hr.flags, hr.penalties⟩

/-- Settles O20: the reset state has no valid flag, no penalty and no buffer entry. -/
theorem resetMeetsTheInvariant : Obligations.ResetMeetsTheInvariant :=
  inv_of_parts reset_resultsSound (statusConsistent_of_reset rfl rfl rfl) (heldInReset_of_released rfl)

/-- Settles O23: every case of a step keeps the results sound, STATUS consistent, and a held reset held. -/
theorem stepKeepsTheInvariant : Obligations.StepKeepsTheInvariant :=
  step_keeps
    (htake := fun _ hs => inv_of_parts hs.resultsSound.outside (hs.status.congr rfl rfl rfl rfl)
      fun hp => congrArg State.takeEvent (hs.held hp))
    (hanswer := fun _ r n hs => inv_of_parts hs.resultsSound.outside (hs.status.congr rfl rfl rfl rfl)
      fun hp => congrArg (fun s : State => { s with response := r, freeCount := n }) (hs.held hp))
    (hreset := fun _ _ => inv_of_parts reset_resultsSound.outside (statusConsistent_of_reset rfl rfl rfl) fun _ => rfl)
    (hcommand := fun _ _ _ _ hs hx h => inv_of_parts (exec_resultsSound hs.resultsSound h)
      (exec_statusConsistent hs.status h)
      (heldInReset_of_released ((exec_resetPin h).trans (heldInReset_released hs.held hx))))
    (hillegal := fun s _ hs hx => inv_of_parts hs.resultsSound.outside
      (raiseError_statusConsistent _ s (by decide) (by decide))
      (heldInReset_of_released ((raiseError_resetPin _ _ s).trans (heldInReset_released hs.held hx))))
    (hwrite := fun s tgt off w _ v hs hp hl => inv_of_parts (writeTarget_resultsSound v hs.resultsSound hl)
      (writeTarget_statusConsistent tgt off w v hs.status)
      (heldInReset_of_released ((writeTarget_resetPin s tgt off w v).trans hp)))

end Sys2Proof.Machine
end

section
/-! PROOFS. A host access and the command in flight (O14): while BUSY = 1 an access touches only OVR, the host's answer
and the count of free values drawn, and no command looks at any of them. -/

namespace Sys2Proof.Machine

/-- The state but for OVR, the host's answer and the count of free values drawn: what a host access can touch while a
command is in flight (R461). -/
def State.touched (s : State) (o : Bool) (r : Response) (n : Nat) : State :=
  { s with status := { s.status with ovr := o }, response := r, freeCount := n }

/-! What the commands read is not touched. -/

section
variable (s : State) (o : Bool) (r : Response) (n : Nat)

@[simp] theorem touched_config : (s.touched o r n).config = s.config := rfl
@[simp] theorem touched_rsSrc : (s.touched o r n).rsSrc = s.rsSrc := rfl
@[simp] theorem touched_inflight : (s.touched o r n).inflight = s.inflight := rfl
@[simp] theorem touched_version : (s.touched o r n).version = s.version := rfl
@[simp] theorem touched_frameVersion : (s.touched o r n).frameVersion = s.frameVersion := rfl
@[simp] theorem touched_frameWidth : (s.touched o r n).frameWidth = s.frameWidth := rfl
@[simp] theorem readFrame_touched : readFrame (s.touched o r n) = readFrame s := rfl
@[simp] theorem readData_touched (off k : Nat) : readData (s.touched o r n) off k = readData s off k := rfl
@[simp] theorem readSequence_touched (k : Nat) : readSequence (s.touched o r n) k = readSequence s k := rfl
@[simp] theorem candidates_touched (rows : List (List Cell)) :
    (s.touched o r n).candidates rows = s.candidates rows := rfl

end

/-- What `body` does is the same from a touched state, but that the touch stays. -/
def KeepsTouch (body : State → Result) : Prop :=
  ∀ s o r n, body (s.touched o r n) = andThen (body s) fun u => .next (u.touched o r n)

theorem KeepsTouch.andThen {body rest : State → Result} (hb : KeepsTouch body) (hr : KeepsTouch rest) :
    KeepsTouch fun s => andThen (body s) rest := by
  intro s o r n
  simp only [hb s o r n, andThen_assoc, andThen_next, hr _ o r n]

/-- A check of what is not touched. -/
theorem KeepsTouch.ite {check : State → Prop} [∀ s, Decidable (check s)] {yes no : State → Result}
    (hcheck : ∀ s o r n, check (s.touched o r n) ↔ check s) (hyes : KeepsTouch yes) (hno : KeepsTouch no) :
    KeepsTouch fun s => if check s then yes s else no s := by
  intro s o r n
  by_cases h : check s
  · simp only [if_pos h, if_pos ((hcheck s o r n).2 h), hyes s o r n]
  · simp only [if_neg h, if_neg (mt (hcheck s o r n).1 h), hno s o r n]

/-- An effect or a completion that carries what is touched along. -/
theorem KeepsTouch.next {f : State → State} (hf : ∀ s o r n, f (s.touched o r n) = (f s).touched o r n) :
    KeepsTouch fun s => .next (f s) :=
  fun s o r n => congrArg Host.Outcome.next (hf s o r n)

theorem completeOk_keepsTouch : KeepsTouch fun s => .next (completeOk s) := .next fun _ _ _ _ => rfl

theorem raiseError_keepsTouch (opc : Byte) (e : ErrCode) : KeepsTouch fun s => .next (raiseError opc e s) :=
  .next fun _ _ _ _ => rfl

theorem eccbldBody_keepsTouch : KeepsTouch eccbldBody := by
  intro s o r n
  simp only [eccbldBody, touched_version, touched_config, readData_touched]
  cases readData s 0 (blockPlan s.version s.config.level).dataCodewords <;> rfl

theorem frminitBody_keepsTouch : KeepsTouch frminitBody := .next fun _ _ _ _ => rfl

theorem placeBody_keepsTouch : KeepsTouch placeBody := by
  intro s o r n
  unfold placeBody
  rw [readFrame_touched]
  cases readFrame s with
  | none => rfl
  | some rows =>
    dsimp only
    rw [readSequence_touched, touched_frameVersion, touched_frameWidth]
    cases readSequence s (totalCodewords s.frameVersion) with
    | none => rfl
    | some seq =>
      by_cases hl : (order s.frameWidth rows).length = (placedBits s.frameVersion seq).length <;>
        simp only [hl, ne_eq, not_true_eq_false, not_false_eq_true, if_true, if_false] <;> rfl

theorem mselBody_keepsTouch : KeepsTouch mselBody := by
  intro s o r n
  simp only [mselBody, readFrame_touched, candidates_touched]
  cases readFrame s with
  | none => rfl
  | some rows => dsimp only; cases firstMinimum none (s.candidates rows) <;> rfl

theorem encodeBody_keepsTouch : KeepsTouch encodeBody :=
  ((eccbldBody_keepsTouch.andThen frminitBody_keepsTouch).andThen placeBody_keepsTouch).andThen mselBody_keepsTouch

/-- A body behind a check that raises an error, then completed. -/
theorem KeepsTouch.guarded {check : State → Prop} [∀ s, Decidable (check s)] {opc : Byte} {e : ErrCode}
    {rest : State → Result} (hcheck : ∀ s o r n, check (s.touched o r n) ↔ check s) (hrest : KeepsTouch rest) :
    KeepsTouch fun s => if check s then .next (raiseError opc e s) else rest s :=
  .ite hcheck (raiseError_keepsTouch opc e) hrest

/-- No command but SRST, which clears OVR too, looks at what a host access touches. -/
theorem exec_keepsTouch {i : Instr} (hi : i ≠ .srst) : KeepsTouch (exec i) := by
  have hversion : ∀ s o r n, (!legalVersion (State.touched s o r n).version) = true ↔ (!legalVersion s.version) = true :=
    fun _ _ _ _ => Iff.rfl
  have hplaced : ∀ s o r n, (!(State.touched s o r n).status.plcd) = true ↔ (!s.status.plcd) = true :=
    fun _ _ _ _ => Iff.rfl
  have hmask : ∀ s o r n, (State.touched s o r n).config.maskEn = 0 ↔ s.config.maskEn = 0 := fun _ _ _ _ => Iff.rfl
  cases i with
  | srst => exact absurd rfl hi
  | nop => exact completeOk_keepsTouch
  | fmtinfo lvl m => exact .next fun _ _ _ _ => rfl
  | verinfo v => exact .guarded (fun _ _ _ _ => Iff.rfl) (.next fun _ _ _ _ => rfl)
  | rsenc k nr =>
    refine .guarded (check := fun s => badRsOperands k nr s.rsSrc.toNat = true) (fun _ _ _ _ => Iff.rfl)
      fun s o r n => ?_
    simp only [touched_rsSrc, readData_touched]
    cases readData s s.rsSrc.toNat k <;> rfl
  | eccbld => exact .guarded hversion (eccbldBody_keepsTouch.andThen completeOk_keepsTouch)
  | frminit => exact .guarded hversion (frminitBody_keepsTouch.andThen completeOk_keepsTouch)
  | place =>
    exact .guarded (check := fun s => s.cannotPlace = true) (fun _ _ _ _ => Iff.rfl)
      (placeBody_keepsTouch.andThen completeOk_keepsTouch)
  | mapply m | meval m =>
    refine .guarded hplaced fun s o r n => ?_
    simp only [readFrame_touched]
    cases readFrame s <;> rfl
  | msel => exact .guarded hmask (.guarded hplaced (mselBody_keepsTouch.andThen completeOk_keepsTouch))
  | encode => exact .guarded hversion (.guarded hmask (encodeBody_keepsTouch.andThen completeOk_keepsTouch))

/-- The engine's turn ends alike from a touched state; only SRST replaces the OVR it finds (R371). -/
theorem engineTurn_touched (s : State) (o : Bool) (r : Response) (n : Nat) :
    ∃ o', engineTurn (s.touched o r n) = andThen (engineTurn s) fun u => .next (u.touched o' r n) := by
  unfold engineTurn
  rw [touched_inflight]
  cases s.inflight with
  | none => exact ⟨o, rfl⟩
  | some x =>
    dsimp only
    cases decode x with
    | error _ => exact ⟨o, rfl⟩
    | ok i =>
      by_cases hi : i = .srst
      · exact ⟨false, hi ▸ rfl⟩
      · exact ⟨o, exec_keepsTouch hi s o r n⟩

/-- While BUSY = 1 an acknowledgement finds neither DONE nor ERR to clear (R462). -/
theorem acknowledge_busy_eq {s : State} (v : Word) (hb : s.busy = true) (hs : s.StatusConsistent) :
    acknowledge v s = s.touched (s.status.ovr && !v.getLsbD 3) s.response s.freeCount := by
  obtain ⟨hd, he⟩ := hs.busyQuiet hb
  simp [acknowledge, State.touched, StatusReg.clear, hd, he, hs.clearWithoutError he]

/-- While BUSY = 1 a host access that answers only touches the state. -/
theorem access_touches {s t : State} {e : Event} (hb : s.busy = true) (hs : s.StatusConsistent)
    (he : (∃ w a, e = .read w a) ∨ ∃ w a v, e = .write w a v) (h : perform e s = .next t) :
    ∃ o r n, t = s.touched o r n := by
  obtain ⟨rfl, -⟩ | ⟨b, rfl, -⟩ | ⟨w, a, rfl, -, hread⟩ | ⟨w, a, v, rfl, -, hwrite⟩ := perform_next e s t h
  · simp at he
  · simp at he
  · obtain ⟨v, n, rfl⟩ := hostRead_next w a s t hread
    exact ⟨s.status.ovr, .data v, n, rfl⟩
  · obtain ⟨tgt, off, -, rfl⟩ := (hostWrite_next w a v s t).1 hwrite
    obtain h | h | h | ⟨hi, -⟩ | ⟨hi, -⟩ | ⟨hi, -⟩ | ⟨hi, -⟩ := writeTarget_cases s tgt off w v
    · exact ⟨s.status.ovr, .written, s.freeCount, by rw [h]; rfl⟩
    · exact ⟨true, .written, s.freeCount, by rw [h]; rfl⟩
    · exact ⟨s.status.ovr && !v.getLsbD 3, .written, s.freeCount, by rw [h, acknowledge_busy_eq v hb hs]; rfl⟩
    all_goals exact absurd (hb.symm.trans hi) (by decide)

/-- Settles O14: the access only touches the state, and the engine's turn does not look at what it touches. -/
theorem hostAccessesDoNotDisturbTheCommand : Obligations.HostAccessesDoNotDisturbTheCommand := by
  intro s t e hb hs he h
  obtain ⟨o, r, n, rfl⟩ := access_touches hb hs he h
  obtain ⟨o', hturn⟩ := engineTurn_touched s o r n
  refine ⟨fun f hf => ?_, fun u hu => ⟨u.touched o' r n, ?_, rfl⟩⟩
  · rw [hturn, hf, andThen_fault]
  · rw [hturn, hu, andThen_next]

end Sys2Proof.Machine
end

section
/-! PROOFS. The address map as a whole: which row serves an access, and the byte that stands at an address; the
statements about reads and writes of the windows (O25–O28). -/

namespace Sys2Proof.Machine

/-- Two rows of the map that share an address are one row (R101). -/
theorem memoryMap_disjoint : ∀ row ∈ memoryMap, ∀ other ∈ memoryMap,
    row.base < other.base + other.size → other.base < row.base + row.size → other = row := by
  decide

/-- The row that holds a range is the one `rowOf` finds. -/
theorem rowOf_eq_of_mem {row : MapRow} {a n : Nat} (hmem : row ∈ memoryMap) (hn : 0 < n) (hbase : row.base ≤ a)
    (hend : a + n ≤ row.base + row.size) : rowOf a n = some row := by
  have hfound : (rowOf a n).isSome = true :=
    List.find?_isSome.2 ⟨row, hmem, by simp [hbase, hend]⟩
  obtain ⟨other, hother⟩ := Option.isSome_iff_exists.1 hfound
  obtain ⟨hmem', hbase', hend'⟩ := rowOf_some hother
  rw [hother, memoryMap_disjoint row hmem other hmem' (by omega) (by omega)]

/-- The row serves an access of a width at an address: it holds the whole access, lists the width, and is writable if
the access is a write (R102). -/
structure MapRow.Serves (row : MapRow) (isWrite : Bool) (w : Width) (a : Nat) : Prop where
  base : row.base ≤ a
  bound : a + w.bytes ≤ row.base + row.size
  width : row.widths.contains w = true
  write : (!isWrite || row.writable) = true

theorem MapRow.serves_iff (row : MapRow) (isWrite : Bool) (w : Width) (a : Nat) :
    row.Serves isWrite w a ↔ row.base ≤ a ∧ a + w.bytes ≤ row.base + row.size ∧ row.widths.contains w = true ∧
      (!isWrite || row.writable) = true :=
  ⟨fun ⟨h1, h2, h3, h4⟩ => ⟨h1, h2, h3, h4⟩, fun ⟨h1, h2, h3, h4⟩ => ⟨h1, h2, h3, h4⟩⟩

theorem Width.bytes_pos (w : Width) : 0 < w.bytes := by cases w <;> decide

/-- An aligned access that a row serves is legal, and accesses that row's target. -/
theorem legalAccess_of_serves {row : MapRow} {isWrite : Bool} {w : Width} {a : Addr} (halign : a.toNat % w.bytes = 0)
    (hmem : row ∈ memoryMap) (h : row.Serves isWrite w a.toNat) :
    legalAccess isWrite w a = some (row.target, a.toNat - row.base) := by
  obtain ⟨hbase, hbound, hwidth, hwrite⟩ := h
  simp only [legalAccess, halign, ne_eq, not_true_eq_false, if_false, rowOf_eq_of_mem hmem w.bytes_pos hbase hbound,
    hwidth, hwrite, Bool.and_true, if_true]

/-- A bus error: the access is misaligned, or no row serves it (R103). -/
theorem legalAccess_eq_none_iff (isWrite : Bool) (w : Width) (a : Addr) :
    legalAccess isWrite w a = none ↔
      ¬ (a.toNat % w.bytes = 0 ∧ ∃ row ∈ memoryMap, row.Serves isWrite w a.toNat) := by
  constructor
  · rintro h ⟨halign, row, hmem, hserves⟩
    cases h.symm.trans (legalAccess_of_serves halign hmem hserves)
  · intro h
    unfold legalAccess
    by_cases halign : a.toNat % w.bytes = 0
    · rw [if_neg (not_not.2 halign)]
      cases hrow : rowOf a.toNat w.bytes with
      | none => rfl
      | some row =>
        obtain ⟨hmem, hbase, hbound⟩ := rowOf_some hrow
        refine if_neg fun hok => h ⟨halign, row, hmem, ?_⟩
        obtain ⟨hwidth, hwrite⟩ := (Bool.and_eq_true _ _).mp hok
        exact ⟨hbase, hbound, hwidth, hwrite⟩
    · exact if_pos halign

/-- The readable ranges: adjacent rows of the map make one range, and the registers are read as words only (R101). -/
theorem exists_serves_read_iff (w : Width) {a : Nat} (halign : a % w.bytes = 0) :
    (∃ row ∈ memoryMap, row.Serves false w a) ↔
      (w = .word ∧ (a < 0x00028 ∨ (0x00040 ≤ a ∧ a < 0x00060))) ∨
        (0x01000 ≤ a ∧ a < 0x03300) ∨ (0x10000 ≤ a ∧ a < 0x1B100) ∨ (0x20000 ≤ a ∧ a < 0x2B100) := by
  simp only [MapRow.serves_iff]
  cases w <;> simp [memoryMap, maskIds, Width.bytes, registerWidths, bufferWidths] at halign ⊢ <;> omega

/-- The writable addresses: four registers, and DBUF (R101). -/
theorem exists_serves_write_iff (w : Width) {a : Nat} (halign : a % w.bytes = 0) :
    (∃ row ∈ memoryMap, row.Serves true w a) ↔
      (w = .word ∧ (a = 0x00004 ∨ a = 0x00008 ∨ a = 0x0000C ∨ a = 0x00014)) ∨ (0x01000 ≤ a ∧ a < 0x02000) := by
  simp only [MapRow.serves_iff]
  cases w <;> simp [memoryMap, maskIds, Width.bytes, registerWidths, bufferWidths] at halign ⊢ <;> omega

/-- A read gets a bus error exactly when it is not legal (R103). -/
theorem hostRead_busError_iff (w : Width) (a : Addr) (s : State) :
    hostRead w a s = .fault (.busError w a) ↔ legalAccess false w a = none := by
  unfold hostRead
  cases legalAccess false w a with
  | none => simp
  | some p => cases hv : readTarget s p.1 p.2 w <;> simp [hv]

/-- A write gets a bus error exactly when it is not legal (R103). -/
theorem hostWrite_busError_iff (w : Width) (a : Addr) (v : Word) (s : State) :
    hostWrite w a v s = .fault (.busError w a) ↔ legalAccess true w a = none := by
  unfold hostWrite
  cases legalAccess true w a <;> simp

/-- Settles O25: a bus error is an access that no row serves, and the rows add up to the listed ranges. -/
theorem busErrorsAreExactlyTheIllegalAccesses : Obligations.BusErrorsAreExactlyTheIllegalAccesses := by
  intro s w a v
  rw [hostRead_busError_iff, hostWrite_busError_iff, legalAccess_eq_none_iff, legalAccess_eq_none_iff]
  refine ⟨not_congr (and_congr_right fun halign => exists_serves_read_iff w halign),
    not_congr (and_congr_right fun halign => (exists_serves_write_iff w halign).trans ?_)⟩
  simp only [← BitVec.toNat_inj]
  rfl

/-- Settles O26: a read that answers changes only the response and the count of free values. -/
theorem readsHaveNoSideEffects : Obligations.ReadsHaveNoSideEffects := by
  intro s t w a h
  obtain ⟨he, -⟩ | ⟨b, he, -⟩ | ⟨w', a', he, -, hread⟩ | ⟨w', a', v, he, -⟩ := perform_next _ s t h <;> cases he
  exact hostRead_next w a s t hread

/-! The byte at an address (R101, R104). -/

/-- The byte of a row at an offset inside it. -/
theorem byteAt_of_mem (s : State) {row : MapRow} (hmem : row ∈ memoryMap) {off : Nat} (hoff : off < row.size) :
    s.byteAt (row.base + off) = windowByte s row.target off := by
  rw [State.byteAt, rowOf_eq_of_mem hmem Nat.one_pos (Nat.le_add_right _ _) (by omega)]
  exact congrArg (windowByte s row.target) (Nat.add_sub_cancel_left _ _)

/-- Two states agree on the byte at an address when the row that holds it, if any, reads alike. -/
theorem byteAt_congr {s t : State} {a : Nat}
    (h : ∀ row ∈ memoryMap, row.base ≤ a → a < row.base + row.size →
      windowByte t row.target (a - row.base) = windowByte s row.target (a - row.base)) :
    t.byteAt a = s.byteAt a := by
  unfold State.byteAt
  cases hrow : rowOf a 1 with
  | none => rfl
  | some row =>
    obtain ⟨hmem, hbase, hbound⟩ := rowOf_some hrow
    exact h row hmem hbase hbound

section
variable (s : State) {i : Nat}

theorem byteAt_dbuf (hi : i < 4096) : s.byteAt (0x01000 + i) = s.dbuf.read i :=
  byteAt_of_mem s (row := ⟨0x01000, 4096, .dbuf, true, bufferWidths⟩) (by decide) hi

theorem byteAt_seq (hi : i < 4096) : s.byteAt (0x02000 + i) = s.seq.read i :=
  byteAt_of_mem s (row := ⟨0x02000, 4096, .seq, false, bufferWidths⟩) (by decide) hi

theorem byteAt_pbuf (hi : i < 256) : s.byteAt (0x03000 + i) = s.pbuf.read i :=
  byteAt_of_mem s (row := ⟨0x03000, 256, .pbuf, false, bufferWidths⟩) (by decide) hi

theorem byteAt_exp (hi : i < 256) : s.byteAt (0x03100 + i) = some (expEntry i) :=
  byteAt_of_mem s (row := ⟨0x03100, 256, .exp, false, bufferWidths⟩) (by decide) hi

theorem byteAt_log (hi : i < 256) :
    s.byteAt (0x03200 + i) = some (BitVec.ofNat 8 (logEntry (BitVec.ofNat 8 i))) :=
  byteAt_of_mem s (row := ⟨0x03200, 256, .log, false, bufferWidths⟩) (by decide) hi

theorem byteAt_frame (hi : i < 45312) :
    s.byteAt (0x10000 + i) = if 177 ≤ i % 256 then some 0 else (s.frame.read i).map Cell.byte :=
  byteAt_of_mem s (row := ⟨0x10000, 45312, .frame, false, bufferWidths⟩) (by decide) hi

theorem byteAt_matrix (hi : i < 45312) :
    s.byteAt (0x20000 + i) = if 177 ≤ i % 256 then some 0 else (s.matrix.read i).map moduleByte :=
  byteAt_of_mem s (row := ⟨0x20000, 45312, .matrix, false, bufferWidths⟩) (by decide) hi

end

theorem logFrom_le (fuel i : Nat) (p x : Byte) : logFrom fuel i p x ≤ i + fuel := by
  induction fuel generalizing i p with
  | zero => exact le_rfl
  | succ fuel ih =>
    unfold logFrom
    split
    · omega
    · exact (ih (i + 1) (xtime p)).trans (by omega)

/-- An entry of LOG fits in its byte (R51, R202). -/
theorem logEntry_lt (x : Byte) : logEntry x < 256 := by
  unfold logEntry
  split
  · decide
  · exact Nat.lt_succ_of_le (logFrom_le 255 0 0x01 x)

/-! A run of bytes as one word (R104). -/

/-- A run that is there has the byte at each of its offsets. -/
theorem windowBytes_some {s : State} {t : Target} {off n : Nat} {bs : List Byte}
    (h : windowBytes s t off n = some bs) :
    bs.length = n ∧ ∀ j, j < n → windowByte s t (off + j) = bs[j]? := by
  induction n generalizing off bs with
  | zero => cases h; exact ⟨rfl, fun j hj => absurd hj (Nat.not_lt_zero j)⟩
  | succ n ih =>
    unfold windowBytes at h
    split at h
    case h_1 b rest hb hrest =>
      cases h
      obtain ⟨hlen, hbytes⟩ := ih hrest
      refine ⟨congrArg (· + 1) hlen, fun j hj => ?_⟩
      cases j with
      | zero => exact hb
      | succ j =>
        rw [List.getElem?_cons_succ, ← hbytes j (by omega)]
        exact congrArg _ (by omega)
    case h_2 => cases h

/-- A run that is not there misses a byte. -/
theorem windowBytes_none {s : State} {t : Target} {off n : Nat} (h : windowBytes s t off n = none) :
    ∃ j, j < n ∧ windowByte s t (off + j) = none := by
  induction n generalizing off with
  | zero => cases h
  | succ n ih =>
    unfold windowBytes at h
    cases hb : windowByte s t off with
    | none => exact ⟨0, n.succ_pos, hb⟩
    | some b =>
      cases hrest : windowBytes s t (off + 1) n with
      | none =>
        obtain ⟨j, hj, hnone⟩ := ih hrest
        exact ⟨j + 1, by omega, by rwa [show off + (j + 1) = off + 1 + j by omega]⟩
      | some rest => simp [hb, hrest] at h

/-- The bits of a word put together from its bytes: the first byte is the lowest. -/
theorem getLsbD_littleEndian_cons (b : Byte) (bs : List Byte) {i : Nat} (hi : i < 32) :
    (littleEndian (b :: bs)).getLsbD i = if i < 8 then b.getLsbD i else (littleEndian bs).getLsbD (i - 8) := by
  by_cases h8 : i < 8
  · simp [littleEndian, h8, hi]
  · simp only [littleEndian, BitVec.getLsbD_or, BitVec.getLsbD_shiftLeft, BitVec.getLsbD_setWidth,
      BitVec.getLsbD_of_ge b i (by omega)]
    simp [h8, hi]

/-- Bits [8j+7:8j] of the word are byte j. -/
theorem extractLsb'_littleEndian {bs : List Byte} {j : Nat} {b : Byte} (hj : j < 4) (h : bs[j]? = some b) :
    (littleEndian bs).extractLsb' (8 * j) 8 = b := by
  refine extractLsb'_eq_of_bits fun i hi => ?_
  induction j generalizing bs with
  | zero =>
    cases bs with
    | nil => cases h
    | cons c cs =>
      cases h
      rw [getLsbD_littleEndian_cons _ _ (by omega), if_pos (by omega), Nat.mul_zero, Nat.zero_add]
  | succ j ih =>
    cases bs with
    | nil => cases h
    | cons c cs =>
      rw [getLsbD_littleEndian_cons _ _ (by omega), if_neg (by omega),
        show 8 * (j + 1) + i - 8 = 8 * j + i by omega]
      exact ih (by omega) h

/-- The word is 0 above its bytes. -/
theorem littleEndian_lt (bs : List Byte) : (littleEndian bs).toNat < 2 ^ (8 * bs.length) := by
  induction bs with
  | nil => decide
  | cons b bs ih =>
    have hpow : 2 ^ (8 * (b :: bs).length) = 2 ^ (8 * bs.length) * 2 ^ 8 := by
      rw [List.length_cons, Nat.mul_succ, Nat.pow_add]
    rw [littleEndian, BitVec.toNat_or]
    refine Nat.or_lt_two_pow ?_ ?_
    · rw [BitVec.toNat_shiftLeft, hpow, Nat.shiftLeft_eq]
      exact (Nat.mod_le _ _).trans_lt (Nat.mul_lt_mul_of_pos_right ih (by decide))
    · have hb : (b.setWidth 32).toNat < 2 ^ 8 := by simpa using Nat.mod_lt_of_lt b.isLt
      rw [hpow]
      exact hb.trans_le (Nat.le_mul_of_pos_left _ (Nat.two_pow_pos _))

/-! Reads of a buffer or table while BUSY = 0. -/

/-- The buffer behind a window; the constant tables and the registers have none. -/
def Target.buffer : Target → Option Buffer
  | .dbuf => some .dbuf
  | .seq => some .seq
  | .pbuf => some .pbuf
  | .frame => some .frame
  | .matrix => some .matrix
  | _ => none

/-- A read of bytes that are all there finds them as one word. -/
theorem readTarget_of_bytes {s : State} {t : Target} {off : Nat} {w : Width} {bs : List Byte}
    (hb : s.busy = false) (h : windowBytes s t off w.bytes = some bs) :
    readTarget s t off w = .value (littleEndian bs) := by
  obtain ⟨hlen, hbytes⟩ := windowBytes_some h
  cases t with
  | dbuf | seq | pbuf | frame | matrix => simp [readTarget, resultValue_idle _ hb, bufferValue, h]
  | exp | log => simp [readTarget, tableValue, h]
  | _ =>
    have hnone : bs[0]? = none := (hbytes 0 w.bytes_pos).symm
    rw [List.getElem?_eq_none_iff, hlen] at hnone
    exact absurd w.bytes_pos (Nat.not_lt.2 hnone)

/-- A read of a buffer that misses a byte finds it unwritten. -/
theorem readTarget_of_missing {s : State} {t : Target} {off : Nat} {w : Width} {b : Buffer}
    (hb : s.busy = false) (ht : t.buffer = some b) (h : windowBytes s t off w.bytes = none) :
    readTarget s t off w = .unwritten b := by
  cases t <;> cases ht <;> simp [readTarget, resultValue_idle _ hb, bufferValue, h]

/-- A legal read that finds a byte unwritten ends in that fault (R452). -/
theorem perform_read_of_unwritten {w : Width} {a : Addr} {s : State} {t : Target} {off : Nat} {b : Buffer}
    (hp : s.resetPin = false) (hl : legalAccess false w a = some (t, off)) (hv : readTarget s t off w = .unwritten b) :
    perform (.read w a) s = .fault (.unwritten b) := by
  simp only [perform, hp, Bool.false_eq_true, if_false, hostRead, hl, hv]

/-- The rows of the five buffers (R101). -/
theorem buffer_rows : ∀ row ∈ memoryMap, ∀ b ∈ row.target.buffer, (b, row.base, row.size) ∈
    [(Buffer.dbuf, 0x01000, 4096), (.seq, 0x02000, 4096), (.pbuf, 0x03000, 256), (.frame, 0x10000, 45312),
      (.matrix, 0x20000, 45312)] := by
  decide

/-- A row above the registers without a buffer is a constant table, whose bytes are all there (R51). -/
theorem table_rows : ∀ row ∈ memoryMap, row.target.buffer = none → 0x01000 < row.base + row.size →
    row.target = .exp ∨ row.target = .log := by
  decide

/-- The address tells the buffer. -/
theorem buffer_of_address {row : MapRow} (hmem : row ∈ memoryMap) {b : Buffer} (hb : row.target.buffer = some b)
    {a : Nat} (hbase : row.base ≤ a) (hbound : a < row.base + row.size) :
    (if a < 0x02000 then Buffer.dbuf else if a < 0x03000 then .seq else if a < 0x03100 then .pbuf
      else if a < 0x20000 then .frame else .matrix) = b := by
  have hrow := buffer_rows row hmem b hb
  simp only [List.mem_cons, Prod.mk.injEq, List.not_mem_nil, or_false] at hrow
  obtain ⟨rfl, h1, h2⟩ | ⟨rfl, h1, h2⟩ | ⟨rfl, h1, h2⟩ | ⟨rfl, h1, h2⟩ | ⟨rfl, h1, h2⟩ := hrow
  · exact if_pos (by omega)
  · rw [if_neg (by omega), if_pos (by omega)]
  · rw [if_neg (by omega), if_neg (by omega), if_pos (by omega)]
  · rw [if_neg (by omega), if_neg (by omega), if_neg (by omega), if_pos (by omega)]
  · rw [if_neg (by omega), if_neg (by omega), if_neg (by omega), if_neg (by omega)]

/-- The bytes of a legal access, by address. -/
theorem byteAt_of_serves (s : State) {row : MapRow} {isWrite : Bool} {w : Width} {a j : Nat} (hmem : row ∈ memoryMap)
    (h : row.Serves isWrite w a) (hj : j < w.bytes) :
    s.byteAt (a + j) = windowByte s row.target (a - row.base + j) := by
  have hbase := h.base
  have hbound := h.bound
  rw [← byteAt_of_mem s hmem (by omega)]
  exact congrArg s.byteAt (by omega)

section
variable {s : State} {w : Width} {a : Addr} {row : MapRow} (hp : s.resetPin = false) (hb : s.busy = false)
  (halign : a.toNat % w.bytes = 0) (hmem : row ∈ memoryMap) (hserves : row.Serves false w a.toNat)
include hp hb halign hmem hserves

/-- A read whose bytes are all there answers them, low byte lowest. -/
theorem read_of_bytes (hall : ∀ j, j < w.bytes → s.byteAt (a.toNat + j) ≠ none) :
    ∃ v : Word, perform (.read w a) s = .next { s with response := .data v } ∧
      (∀ j, j < w.bytes → s.byteAt (a.toNat + j) = some (v.extractLsb' (8 * j) 8)) ∧
      v.toNat < 2 ^ (8 * w.bytes) := by
  have hl := legalAccess_of_serves halign hmem hserves
  cases hrun : windowBytes s row.target (a.toNat - row.base) w.bytes with
  | none =>
    obtain ⟨j, hj, hnone⟩ := windowBytes_none hrun
    exact absurd ((byteAt_of_serves s hmem hserves hj).trans hnone) (hall j hj)
  | some bs =>
    obtain ⟨hlen, hbytes⟩ := windowBytes_some hrun
    refine ⟨littleEndian bs, perform_read_of_value hp hl (readTarget_of_bytes hb hrun), fun j hj => ?_,
      hlen ▸ littleEndian_lt bs⟩
    have hj4 : w.bytes ≤ 4 := by cases w <;> decide
    have hbyte := List.getElem?_eq_getElem (l := bs) (i := j) (by omega)
    rw [byteAt_of_serves s hmem hserves hj, hbytes j hj, extractLsb'_littleEndian (by omega) hbyte, hbyte]

/-- A read of a window that misses a byte ends in the fault of its buffer. -/
theorem read_of_missing (hwindow : 0x01000 ≤ a.toNat)
    (hmissing : ∃ j, j < w.bytes ∧ s.byteAt (a.toNat + j) = none) :
    perform (.read w a) s = .fault (.unwritten
      (if a.toNat < 0x02000 then .dbuf else if a.toNat < 0x03000 then .seq else if a.toNat < 0x03100 then .pbuf
        else if a.toNat < 0x20000 then .frame else .matrix)) := by
  obtain ⟨j, hj, hnone⟩ := hmissing
  rw [byteAt_of_serves s hmem hserves hj] at hnone
  have hpos := w.bytes_pos
  have hbase := hserves.base
  have hbound := hserves.bound
  cases hbuf : row.target.buffer with
  | none =>
    obtain ht | ht := table_rows row hmem hbuf (by omega) <;> rw [ht] at hnone <;> cases hnone
  | some b =>
    have hrun : windowBytes s row.target (a.toNat - row.base) w.bytes = none := by
      cases hrun : windowBytes s row.target (a.toNat - row.base) w.bytes with
      | none => rfl
      | some bs =>
        obtain ⟨hlen, hbytes⟩ := windowBytes_some hrun
        rw [hbytes j hj, List.getElem?_eq_none_iff] at hnone
        omega
    rw [buffer_of_address hmem hbuf hbase (by omega)]
    exact perform_read_of_unwritten hp (legalAccess_of_serves halign hmem hserves)
      (readTarget_of_missing hb hbuf hrun)

end

/-- The code of a cell: twice its kind plus its bit (R48). -/
theorem cellByte_toNat (b : Bool) : (Cell.byte ⟨.empty, b⟩).toNat = b.toNat ∧
    (Cell.byte ⟨.data, b⟩).toNat = 2 + b.toNat ∧ (Cell.byte ⟨.func, b⟩).toNat = 4 + b.toNat ∧
    (Cell.byte ⟨.rsvd, b⟩).toNat = 6 + b.toNat := by
  revert b; decide

theorem moduleByte_eq : moduleByte = fun dark => if dark then 1 else 0 := by
  funext dark
  cases dark <;> rfl

/-- Settles O27: a window's row serves the access, and the run of its bytes is read as one word. -/
theorem bufferReadsAreLittleEndian : Obligations.BufferReadsAreLittleEndian := by
  refine ⟨fun s w a hp hb halign hrange => ?_, fun s i hi => ⟨byteAt_dbuf s hi, byteAt_seq s hi⟩,
    fun s i hi => ⟨byteAt_pbuf s hi, byteAt_exp s hi, _, byteAt_log s hi, Nat.mod_eq_of_lt (logEntry_lt _)⟩,
    fun s r c hr hc => ?_, fun s r c hr hc hc' => ?_, cellByte_toNat⟩
  · obtain ⟨row, hmem, hserves⟩ := (exists_serves_read_iff w halign).2 (.inr hrange)
    exact ⟨read_of_bytes hp hb halign hmem hserves, read_of_missing hp hb halign hmem hserves (by omega)⟩
  · rw [byteAt_frame s (by omega), byteAt_matrix s (by omega), if_neg (by omega), if_neg (by omega), moduleByte_eq]
    exact ⟨rfl, rfl⟩
  · rw [byteAt_frame s (by omega), byteAt_matrix s (by omega), if_pos (by omega), if_pos (by omega)]
    exact ⟨rfl, rfl⟩

/-! Writes to DBUF while BUSY = 0. -/

theorem bytesOf_length (v : Word) (n : Nat) : (bytesOf v n).length = n := by simp [bytesOf]

theorem getElem?_bytesOf (v : Word) {n j : Nat} (hj : j < n) : (bytesOf v n)[j]? = some (v.extractLsb' (8 * j) 8) := by
  simp [bytesOf, hj]

/-- DBUF's window begins at 0x01000 (R101). -/
theorem dbuf_row_base : ∀ row ∈ memoryMap, row.target = .dbuf → row.base = 0x01000 := by decide

/-- A write to DBUF while BUSY = 0 stores the value's low bytes from the written index on (R104). -/
theorem perform_write_dbuf {s : State} {w : Width} {i : Nat} (v : Word) (hp : s.resetPin = false)
    (hb : s.busy = false) (halign : i % w.bytes = 0) (hi : i + w.bytes ≤ 4096) :
    perform (.write w (BitVec.ofNat 18 (0x01000 + i)) v) s =
      .next { s with dbuf := s.dbuf.writeRun i (bytesOf v w.bytes), response := .written } := by
  have haddr : (BitVec.ofNat 18 (0x01000 + i)).toNat = 0x01000 + i := by
    rw [BitVec.toNat_ofNat]
    omega
  have hmem : (⟨0x01000, 4096, .dbuf, true, bufferWidths⟩ : MapRow) ∈ memoryMap := by decide
  have hserves : MapRow.Serves ⟨0x01000, 4096, .dbuf, true, bufferWidths⟩ true w (0x01000 + i) :=
    { base := Nat.le_add_right _ _
      bound := by show 0x01000 + i + w.bytes ≤ 0x01000 + 4096; omega
      width := by cases w <;> decide
      write := rfl }
  have haligned : (0x01000 + i) % w.bytes = 0 := by cases w <;> simp only [Width.bytes] at halign ⊢ <;> omega
  have hl : legalAccess true w (BitVec.ofNat 18 (0x01000 + i)) = some (.dbuf, i) := by
    rw [legalAccess_of_serves (by rwa [haddr]) hmem (by rwa [haddr]), haddr, Nat.add_sub_cancel_left]
  rw [perform_write_of_legal v hp hl, writeTarget, writeInput_idle _ hb]

/-- Settles O28: the stored run reads back byte by byte, and no other row reads DBUF. -/
theorem dbufWriteStoresItsBytes : Obligations.DbufWriteStoresItsBytes := by
  intro s w i v hp hb hwf halign hi
  have hend : i + w.bytes ≤ 4096 := by cases w <;> simp only [Width.bytes] at halign ⊢ <;> omega
  obtain ⟨hdbuf, -⟩ := (memoryWf_iff s).1 hwf
  refine ⟨_, perform_write_dbuf v hp hb halign hend, rfl, fun j hj => ?_, fun a ha => byteAt_congr ?_⟩
  · rw [Nat.add_assoc, byteAt_dbuf _ (by omega), Memory.read_writeRun _ hdbuf, bytesOf_length, if_pos (by omega),
      Nat.add_sub_cancel_left, getElem?_bytesOf v hj]
  · intro row hmem hbase hbound
    cases ht : row.target with
    | dbuf =>
      have := dbuf_row_base row hmem ht
      show Memory.read _ _ = Memory.read _ _
      rw [Memory.read_writeRun _ hdbuf, bytesOf_length, if_neg (by omega)]
    | _ => rfl

end Sys2Proof.Machine
end

section
/-! PROOFS. The opcode map as a partial bijection: a row's match and mask in terms of the opcode byte and the reserved
bits, the encoder as the inverse of the operand fields; the statements about encoding (O1–O5). -/

namespace Sys2Proof

open Machine

/-! A word and the row it matches (R143). -/

/-- The lowest bit above the operand fields of a command's format, from which on all bits are reserved (R141, R142). -/
def Mnemonic.reservedFrom : Mnemonic → Nat
  | .rsenc => 24
  | .mapply | .meval => 11
  | .fmtinfo => 13
  | .verinfo => 14
  | _ => 8

/-- The bits of a mask: the opcode byte and the bits from n on. -/
theorem getLsbD_opcodeMask (n : Nat) {i : Nat} (hi : i < 32) :
    (0xFF ||| BitVec.allOnes 32 <<< n : Word).getLsbD i = (decide (i < 8) || !decide (i < n)) := by
  have hbyte : (0xFF : Word) = (BitVec.allOnes 8).setWidth 32 := rfl
  rw [hbyte, BitVec.getLsbD_or, BitVec.getLsbD_setWidth, BitVec.getLsbD_allOnes, BitVec.getLsbD_shiftLeft,
    BitVec.getLsbD_allOnes]
  simp [hi, show i - n < 32 by omega]

theorem opcField_eq_iff (x : Word) (b : Byte) : opcField x = b ↔ ∀ i < 8, x.getLsbD i = b.getLsbD i := by
  rw [BitVec.eq_of_getLsbD_eq_iff]
  refine forall₂_congr fun i hi => ?_
  simp [opcField, hi]

theorem ushiftRight_eq_zero_iff (x : Word) (n : Nat) : x >>> n = 0 ↔ ∀ i, n ≤ i → x.getLsbD i = false := by
  constructor
  · intro h i hi
    rw [← Nat.add_sub_cancel' hi, ← BitVec.getLsbD_ushiftRight, h, BitVec.ofNat_eq_ofNat, BitVec.getLsbD_zero]
  · intro h
    apply BitVec.eq_of_getLsbD_eq
    intro i hi
    rw [BitVec.getLsbD_ushiftRight, h _ (Nat.le_add_right n i), BitVec.ofNat_eq_ofNat, BitVec.getLsbD_zero]

/-- A word under such a mask is a byte b exactly when its opcode is b and its bits from n on are 0. -/
theorem and_opcodeMask_eq_iff (x : Word) (b : Byte) {n : Nat} (hn : 8 ≤ n) :
    x &&& (0xFF ||| BitVec.allOnes 32 <<< n) = b.setWidth 32 ↔ opcField x = b ∧ x >>> n = 0 := by
  have hbits : x &&& (0xFF ||| BitVec.allOnes 32 <<< n) = b.setWidth 32 ↔
      ∀ i < 32, (x.getLsbD i && (decide (i < 8) || !decide (i < n))) = b.getLsbD i := by
    rw [BitVec.eq_of_getLsbD_eq_iff]
    refine forall₂_congr fun i hi => ?_
    rw [BitVec.getLsbD_and, getLsbD_opcodeMask n hi, BitVec.getLsbD_setWidth, decide_eq_true hi, Bool.true_and]
  rw [hbits, opcField_eq_iff, ushiftRight_eq_zero_iff]
  constructor
  · refine fun h => ⟨fun i hi => ?_, fun i hi => ?_⟩
    · simpa [hi] using h i (by omega)
    · by_cases h32 : i < 32
      · simpa [show ¬ i < n by omega, BitVec.getLsbD_of_ge b i (by omega)] using h i h32
      · exact BitVec.getLsbD_of_ge x i (by omega)
  · rintro ⟨hopc, hres⟩ i -
    by_cases h8 : i < 8
    · simp [h8, hopc i h8]
    · rw [BitVec.getLsbD_of_ge b i (by omega)]
      by_cases hlt : i < n
      · simp [h8, hlt]
      · simp [hres i (by omega)]

/-- Every row's mask is the opcode byte and its format's reserved bits. -/
theorem opcodeMap_mask : ∀ row ∈ opcodeMap,
    row.mask = 0xFF ||| BitVec.allOnes 32 <<< row.op.reservedFrom ∧
      row.pattern = (opcField row.pattern).setWidth 32 ∧ 8 ≤ row.op.reservedFrom := by decide

/-- A word matches a row when its opcode is the row's and its reserved bits are 0 (R143, R145). -/
theorem matches_row_iff {row : OpRow} (hrow : row ∈ opcodeMap) (x : Word) :
    x &&& row.mask = row.pattern ↔ opcField x = opcField row.pattern ∧ x >>> row.op.reservedFrom = 0 := by
  obtain ⟨hmask, hpattern, hn⟩ := opcodeMap_mask row hrow
  rw [← and_opcodeMask_eq_iff x _ hn, ← hmask, ← hpattern]

/-- No two rows share an opcode (R143). -/
theorem opcodeMap_opcode_injective : ∀ r₁ ∈ opcodeMap, ∀ r₂ ∈ opcodeMap,
    opcField r₁.pattern = opcField r₂.pattern → r₁ = r₂ := by decide

/-- No word matches two rows (R143). -/
theorem matching_row_unique {r₁ r₂ : OpRow} (h₁ : r₁ ∈ opcodeMap) (h₂ : r₂ ∈ opcodeMap) {x : Word}
    (hx₁ : x &&& r₁.mask = r₁.pattern) (hx₂ : x &&& r₂.mask = r₂.pattern) : r₁ = r₂ := by
  obtain ⟨ho₁, -⟩ := (matches_row_iff h₁ x).1 hx₁
  obtain ⟨ho₂, -⟩ := (matches_row_iff h₂ x).1 hx₂
  exact opcodeMap_opcode_injective r₁ h₁ r₂ h₂ (ho₁.symm.trans ho₂)

@[simp] theorem OpRow.matches_iff (row : OpRow) (x : Word) : row.matches x = true ↔ x &&& row.mask = row.pattern :=
  beq_iff_eq

/-- The decoder rejects exactly the words that match no row. -/
theorem exists_decode_error_iff (x : Word) :
    (∃ r, decode x = .error r) ↔ ∀ row ∈ opcodeMap, x &&& row.mask ≠ row.pattern := by
  rw [decode]
  cases hfind : opcodeMap.find? (fun row => row.matches x) with
  | none =>
    have hnone : ∀ row ∈ opcodeMap, x &&& row.mask ≠ row.pattern := by
      simpa using List.find?_eq_none.1 hfind
    refine iff_of_true ?_ hnone
    dsimp only
    split
    · exact ⟨_, rfl⟩
    · exact ⟨_, rfl⟩
  | some row =>
    have hmatch : x &&& row.mask = row.pattern := by simpa using List.find?_some hfind
    exact iff_of_false (by simp) fun h => h row (List.mem_of_find?_eq_some hfind) hmatch

/-- The decoder reads the operands of a row the word matches. -/
theorem decode_of_match {row : OpRow} (hrow : row ∈ opcodeMap) {x : Word} (hx : x &&& row.mask = row.pattern) :
    decode x = .ok (withOperands row.op x) := by
  rw [decode]
  cases hfind : opcodeMap.find? (fun row => row.matches x) with
  | none => exact absurd hx (by simpa using List.find?_eq_none.1 hfind row hrow)
  | some found =>
    have hfound : x &&& found.mask = found.pattern := by simpa using List.find?_some hfind
    rw [matching_row_unique (List.mem_of_find?_eq_some hfind) hrow hfound hx]

/-- A word decodes exactly to the commands of the rows it matches (R143). -/
theorem decode_eq_ok_iff (x : Word) (i : Instr) :
    decode x = .ok i ↔ ∃ row ∈ opcodeMap, x &&& row.mask = row.pattern ∧ i = withOperands row.op x := by
  constructor
  · intro h
    have hmatch : ¬ ∀ row ∈ opcodeMap, x &&& row.mask ≠ row.pattern := by
      rw [← exists_decode_error_iff, h]
      simp
    push Not at hmatch
    obtain ⟨row, hrow, hx⟩ := hmatch
    exact ⟨row, hrow, hx, Except.ok.inj (h.symm.trans (decode_of_match hrow hx))⟩
  · rintro ⟨row, hrow, hx, rfl⟩
    exact decode_of_match hrow hx

/-! The encoder and the operand fields are inverse to each other (R142, R147). -/

/-- A field of a word put back in its place: the word's bits there, and zeros elsewhere. -/
theorem setWidth_extractLsb'_shiftLeft (x : Word) (o n : Nat) :
    (x.extractLsb' o n).setWidth 32 <<< o = x &&& (BitVec.allOnes n).setWidth 32 <<< o := by
  apply BitVec.eq_of_getLsbD_eq
  intro i hi
  by_cases ho : i < o
  · simp [ho]
  · simp [hi, ho, Nat.add_sub_cancel' (Nat.le_of_not_lt ho), Bool.and_comm]

/-- Encoding the fields of a word keeps the bits its row does not fix, and takes the row's for the others. -/
theorem encode_withOperands {row : OpRow} (hrow : row ∈ opcodeMap) (x : Word) :
    encode (withOperands row.op x) = (x &&& ~~~row.mask) ||| row.pattern := by
  fin_cases hrow <;>
    simp [-BitVec.extractLsb'_toNat, -BitVec.toFin_extractLsb', withOperands, encode, kField, nrField, mskField,
      lvlField, verField, code_ofCode, setWidth_extractLsb'_shiftLeft, ← BitVec.and_or_distrib_left]

/-- A word matches a row exactly when it is the word of its own fields under that row. -/
theorem matches_row_iff_encode {row : OpRow} (hrow : row ∈ opcodeMap) (x : Word) :
    x &&& row.mask = row.pattern ↔ encode (withOperands row.op x) = x := by
  have hpattern : ∀ row ∈ opcodeMap, row.pattern &&& row.mask = row.pattern := by decide
  rw [encode_withOperands hrow]
  constructor
  · intro h
    calc (x &&& ~~~row.mask) ||| row.pattern
        _ = (x &&& ~~~row.mask) ||| (x &&& row.mask) := by rw [h]
        _ = x := by ext i; by_cases hx : x[i] <;> simp [hx]
  · intro h
    calc x &&& row.mask
        _ = ((x &&& ~~~row.mask) ||| row.pattern) &&& row.mask := by rw [h]
        _ = row.pattern &&& row.mask := by ext i; by_cases hm : row.mask[i] <;> simp [hm]
        _ = row.pattern := hpattern row hrow

/-- The fields of a word fit their widths. -/
theorem withOperands_wellFormed (op : Mnemonic) (x : Word) : (withOperands op x).wellFormed = true := by
  cases op with
  | rsenc =>
    have hk : kField x < 256 := BitVec.isLt _
    have hnr : nrField x < 256 := BitVec.isLt _
    simp only [withOperands, Instr.wellFormed, Bool.and_eq_true, decide_eq_true_eq]
    omega
  | verinfo =>
    have hv : verField x < 64 := BitVec.isLt _
    simp only [withOperands, Instr.wellFormed, decide_eq_true_eq]
    omega
  | _ => rfl

/-- The command's name. -/
def Instr.mnemonic : Instr → Mnemonic
  | .nop => .nop
  | .srst => .srst
  | .rsenc _ _ => .rsenc
  | .eccbld => .eccbld
  | .frminit => .frminit
  | .place => .place
  | .mapply _ => .mapply
  | .meval _ => .meval
  | .msel => .msel
  | .fmtinfo _ _ => .fmtinfo
  | .verinfo _ => .verinfo
  | .encode => .encode

/-- Every command has a row in the opcode map (R143). -/
theorem exists_row_of_mnemonic (op : Mnemonic) : ∃ row ∈ opcodeMap, row.op = op := by
  cases op <;> decide

/-- A field of a word as a number, bit by bit. -/
theorem extractLsb'_toNat_of_bits {x : Word} {o n v : Nat} (hv : v < 2 ^ n)
    (h : ∀ i < n, x.getLsbD (o + i) = v.testBit i) : (x.extractLsb' o n).toNat = v := by
  have hfield : x.extractLsb' o n = BitVec.ofNat n v :=
    extractLsb'_eq_of_bits fun i hi => by rw [h i hi, BitVec.getLsbD_ofNat, decide_eq_true hi, Bool.true_and]
  rw [hfield, BitVec.toNat_ofNat, Nat.mod_eq_of_lt hv]

theorem kField_encode {k : Nat} (nr : Nat) (hk : k ≤ 255) : kField (encode (.rsenc k nr)) = k :=
  extractLsb'_toNat_of_bits (by omega) fun i hi => by
    simp only [encode, BitVec.getLsbD_or, BitVec.getLsbD_shiftLeft, BitVec.getLsbD_ofNat]
    interval_cases i <;> simp

theorem nrField_encode {k nr : Nat} (hk : k ≤ 255) (hnr : nr ≤ 255) : nrField (encode (.rsenc k nr)) = nr :=
  extractLsb'_toNat_of_bits (by omega) fun i hi => by
    have hhigh : k.testBit (8 + i) = false :=
      Nat.testBit_lt_two_pow (Nat.lt_of_lt_of_le (Nat.lt_succ_of_le hk)
        (Nat.pow_le_pow_right (n := 2) (by decide) (Nat.le_add_right 8 i)))
    simp only [encode, BitVec.getLsbD_or, BitVec.getLsbD_shiftLeft, BitVec.getLsbD_ofNat]
    interval_cases i <;> simp [hhigh]

theorem verField_encode {v : Nat} (hv : v ≤ 63) : verField (encode (.verinfo v)) = v :=
  extractLsb'_toNat_of_bits (by omega) fun i hi => by
    simp only [encode, BitVec.getLsbD_or, BitVec.getLsbD_shiftLeft, BitVec.getLsbD_ofNat]
    interval_cases i <;> simp

/-- The fields of a well-formed command's word are its operands (R142, R147). -/
theorem withOperands_encode {i : Instr} (hi : i.wellFormed = true) : withOperands i.mnemonic (encode i) = i := by
  cases i with
  | rsenc k nr =>
    obtain ⟨hk, hnr⟩ : k ≤ 255 ∧ nr ≤ 255 := by simpa [Instr.wellFormed] using hi
    simp only [Instr.mnemonic, withOperands, kField_encode nr hk, nrField_encode hk hnr]
  | verinfo v =>
    simp only [Instr.mnemonic, withOperands, verField_encode (of_decide_eq_true hi)]
  | mapply m => revert m; decide
  | meval m => revert m; decide
  | fmtinfo lvl m => cases lvl <;> revert m <;> decide
  | _ => rfl

/-- Settles O2: the word of a command is the word of its own fields, so it matches the command's row. -/
theorem decodeOfEncodeIsTheCommand : Obligations.DecodeOfEncodeIsTheCommand := by
  intro i hi
  obtain ⟨row, hrow, hop⟩ := exists_row_of_mnemonic i.mnemonic
  have hfields : withOperands row.op (encode i) = i := by rw [hop, withOperands_encode hi]
  have hmatch := (matches_row_iff_encode hrow (encode i)).2 (by rw [hfields])
  rw [decode_of_match hrow hmatch, hfields]

/-- Settles O3: a word that matches a row is the word of its fields, and fields fit. -/
theorem encodeOfDecodeIsTheWord : Obligations.EncodeOfDecodeIsTheWord := by
  intro x i h
  obtain ⟨row, hrow, hx, rfl⟩ := (decode_eq_ok_iff x i).1 h
  exact ⟨withOperands_wellFormed row.op x, (matches_row_iff_encode hrow x).1 hx⟩

/-- Settles O4: the map is R143's, and a word's opcode byte singles out the only row it can match. -/
theorem decodeFollowsTheOpcodeMap : Obligations.DecodeFollowsTheOpcodeMap :=
  ⟨rfl, fun x => ⟨decode_eq_ok_iff x, fun _ h₁ _ h₂ => matching_row_unique h₁ h₂, (exists_decode_error_iff x).2⟩⟩

/-- An illegal word completes with ILLEGAL in the engine's turn (R145, R404). -/
theorem engineTurn_of_illegal {s : State} {x : Word} {r : Reject} (hx : s.inflight = some x)
    (hd : decode x = .error r) : engineTurn s = .next (completeIllegal x s) := by
  simp only [engineTurn, hx, hd]

/-- The map's opcodes, each with the lowest reserved bit of its format (R141, R143). -/
theorem opcodeMap_opcodes : opcodeMap.map (fun row => (opcField row.pattern, row.op.reservedFrom)) =
    [(0x00, 8), (0x01, 8), (0x10, 24), (0x11, 8), (0x20, 8), (0x21, 8), (0x30, 11), (0x31, 11), (0x32, 8),
     (0x40, 13), (0x41, 14), (0x50, 8)] := rfl

/-- A word is illegal exactly when its opcode's format has a reserved bit that is 1, if it has a format (R145). -/
theorem exists_decode_error_iff_reserved (x : Word) : (∃ r, decode x = .error r) ↔
    ∀ p ∈ opcodeMap.map (fun row => (opcField row.pattern, row.op.reservedFrom)),
      opcField x = p.1 → x >>> p.2 ≠ 0 := by
  rw [exists_decode_error_iff, List.forall_mem_map]
  refine forall₂_congr fun row hrow => ?_
  rw [Ne, matches_row_iff hrow, not_and]

/-- Settles O5: the rows' reserved bits opcode by opcode; a rejected word is completed by `completeIllegal`. -/
theorem illegalWordsCompleteWithIllegal : Obligations.IllegalWordsCompleteWithIllegal := by
  refine ⟨fun x => ?_, by decide +kernel, fun s x r ha hx hd => ?_, fun k nr hk hnr => ?_, fun v hv => ?_⟩
  · rw [exists_decode_error_iff_reserved, opcodeMap_opcodes]
    simp only [List.forall_mem_cons, List.not_mem_nil, false_implies, implies_true, and_true]
    generalize opcField x = o
    by_cases ho : o ∈ [0x00, 0x01, 0x10, 0x11, 0x20, 0x21, 0x30, 0x31, 0x32, 0x40, 0x41, 0x50]
    · fin_cases ho <;> simp
    · simp only [List.mem_cons, List.not_mem_nil, or_false, not_or] at ho
      simp only [List.mem_cons, List.not_mem_nil, ho, or_false, false_and, false_implies, and_true, not_false_eq_true]
  · rw [step_nil s ha, engineTurn_of_illegal hx hd]
    rfl
  · exact ⟨_, decodeOfEncodeIsTheCommand _ (by simp [Instr.wellFormed, hk, hnr])⟩
  · exact ⟨_, decodeOfEncodeIsTheCommand _ (by simp [Instr.wellFormed, hv])⟩

/-- Settles O1: the example words of R149, evaluated. -/
theorem specsExampleWordsDecode : Obligations.SpecsExampleWordsDecode := by
  unfold Obligations.SpecsExampleWordsDecode
  decide

end Sys2Proof
end

section
/-! PROOFS. GF(2^8) (O32, O33). Multiplication by α is linear and is one step of the reduction by the field polynomial;
as every nonzero byte is a power of α, a product of bytes is a sum of exponents. -/

namespace Sys2Proof.Machine

/-! Multiplication by α (R200, R201). -/

/-- A term taken where exactly one of two bits is 1 is the sum of the terms taken for each. -/
theorem ite_bxor (x y : Bool) (m : Byte) :
    (if (x ^^ y) = true then m else 0x00) = (if x = true then m else 0x00) ^^^ (if y = true then m else 0x00) := by
  cases x <;> cases y <;> simp

theorem xtime_xor (a b : Byte) : xtime (a ^^^ b) = xtime a ^^^ xtime b := by
  simp only [xtime, BitVec.shiftLeft_xor_distrib, BitVec.getLsbD_xor, ite_bxor]
  ac_rfl

/-- Multiplication by α doubles, and reduces by the field polynomial when x^8 appears (R200, R201). -/
theorem toNat_xtime : ∀ a : Byte, (xtime a).toNat = 2 * a.toNat ^^^ (if a.getLsbD 7 then 0x11D else 0) := by
  decide +kernel

/-! The logarithm table (R201, R202). -/

theorem expEntry_of_lt {i : Nat} (hi : i < 255) : expEntry i = alphaPow i := if_neg (by omega)

/-- α is primitive: its first 255 powers are the nonzero bytes, each once (R201). -/
theorem logEntry_alphaPow : ∀ i < 255, logEntry (alphaPow i) = i := by decide +kernel

theorem alphaPow_logEntry : ∀ x : Byte, x ≠ 0x00 → logEntry x < 255 ∧ alphaPow (logEntry x) = x := by
  decide +kernel

/-- Settles O32: the tables' entries are the powers of α up to the sentinel. -/
theorem expAndLogTablesAreInverse : Obligations.ExpAndLogTablesAreInverse := by
  refine ⟨rfl, rfl, rfl, fun i hi => ?_, fun i hi => ?_, fun x hx => ?_⟩
  · rw [expEntry_of_lt (by omega), expEntry_of_lt (by omega)]
    exact toNat_xtime _
  · rw [expEntry_of_lt hi, logEntry_alphaPow i hi]
  · obtain ⟨hlt, hexp⟩ := alphaPow_logEntry x hx
    exact ⟨hlt, (expEntry_of_lt hlt).trans hexp⟩

/-! The product is linear in both factors and commutes with α (R200). -/

theorem mulBits_xor_right (n : Nat) (a b c : Byte) : mulBits n a (b ^^^ c) = mulBits n a b ^^^ mulBits n a c := by
  induction n generalizing a b c with
  | zero => simp [mulBits]
  | succ n ih =>
    simp only [mulBits, BitVec.ushiftRight_xor_distrib, BitVec.getLsbD_xor, ite_bxor, ih]
    ac_rfl

theorem mulBits_xtime_left (n : Nat) (a b : Byte) : mulBits n (xtime a) b = xtime (mulBits n a b) := by
  induction n generalizing a b with
  | zero => simp [mulBits, xtime]
  | succ n ih =>
    rw [mulBits, mulBits, ih, xtime_xor, apply_ite xtime]
    rfl

theorem gfMul_xor (a b c : Byte) : gfMul a (b ^^^ c) = gfMul a b ^^^ gfMul a c := mulBits_xor_right 8 a b c

theorem gfMul_xtime_left (a b : Byte) : gfMul (xtime a) b = xtime (gfMul a b) := mulBits_xtime_left 8 a b

@[simp] theorem gfMul_zero (a : Byte) : gfMul a 0#8 = 0#8 := by
  simpa using gfMul_xor a 0#8 0#8

@[simp] theorem one_gfMul : ∀ b : Byte, gfMul 1#8 b = b := by decide +kernel

@[simp] theorem zero_gfMul : ∀ b : Byte, gfMul 0#8 b = 0#8 := by decide +kernel

/-! The product is the sum of the exponents (R203). -/

theorem gfMul_alphaPow (i j : Nat) : gfMul (alphaPow i) (alphaPow j) = alphaPow (i + j) := by
  induction i with
  | zero => rw [Nat.zero_add]; exact one_gfMul _
  | succ i ih => rw [alphaPow, gfMul_xtime_left, ih, Nat.succ_add, alphaPow]

theorem alphaPow_mod (i : Nat) : alphaPow (i % 255) = alphaPow i := by
  have hcycle (j : Nat) : alphaPow (255 + j) = alphaPow j := by
    rw [← gfMul_alphaPow, show alphaPow 255 = 1#8 by decide +kernel, one_gfMul]
  induction i using Nat.strongRecOn with
  | ind i ih =>
    by_cases hi : i < 255
    · rw [Nat.mod_eq_of_lt hi]
    · obtain ⟨j, rfl⟩ := Nat.exists_eq_add_of_le (Nat.le_of_not_lt hi)
      rw [Nat.add_mod_left, ih j (by omega), hcycle]

/-- Every byte is 0 or a power of α (R201). -/
theorem eq_zero_or_alphaPow (a : Byte) : a = 0#8 ∨ ∃ i, a = alphaPow i :=
  or_iff_not_imp_left.2 fun ha => ⟨_, (alphaPow_logEntry a ha).2.symm⟩

theorem gfMul_comm (a b : Byte) : gfMul a b = gfMul b a := by
  obtain rfl | ⟨i, rfl⟩ := eq_zero_or_alphaPow a
  · simp
  obtain rfl | ⟨j, rfl⟩ := eq_zero_or_alphaPow b
  · simp
  rw [gfMul_alphaPow, gfMul_alphaPow, Nat.add_comm]

@[simp] theorem gfMul_one (a : Byte) : gfMul a 1#8 = a := by rw [gfMul_comm, one_gfMul]

theorem gfMul_assoc (a b c : Byte) : gfMul (gfMul a b) c = gfMul a (gfMul b c) := by
  obtain rfl | ⟨i, rfl⟩ := eq_zero_or_alphaPow a
  · simp
  obtain rfl | ⟨j, rfl⟩ := eq_zero_or_alphaPow b
  · simp
  obtain rfl | ⟨k, rfl⟩ := eq_zero_or_alphaPow c
  · simp
  simp only [gfMul_alphaPow, Nat.add_assoc]

theorem xor_gfMul (a b c : Byte) : gfMul (a ^^^ b) c = gfMul a c ^^^ gfMul b c := by
  rw [gfMul_comm, gfMul_xor, gfMul_comm c a, gfMul_comm c b]

/-- The product of nonzero bytes by the tables (R203). -/
theorem gfMul_eq_expEntry {a b : Byte} (ha : a ≠ 0x00) (hb : b ≠ 0x00) :
    gfMul a b = expEntry ((logEntry a + logEntry b) % 255) := by
  rw [expEntry_of_lt (Nat.mod_lt _ (by decide)), alphaPow_mod, ← gfMul_alphaPow, (alphaPow_logEntry a ha).2,
    (alphaPow_logEntry b hb).2]

/-! POLYMOD is linear, and enough steps are as good as any (R251). -/

theorem polyModSteps_xor (n a b g k : Nat) :
    polyModSteps n (a ^^^ b) g k = polyModSteps n a g k ^^^ polyModSteps n b g k := by
  induction n generalizing a b with
  | zero => rfl
  | succ n ih =>
    simp only [polyModSteps, Nat.testBit_xor, ← ih]
    congr 1
    cases a.testBit (n + k) <;> cases b.testBit (n + k)
    · simp
    · simp [Nat.xor_assoc]
    · simp only [Bool.xor_false, if_true, Bool.false_eq_true, if_false]
      ac_rfl
    · simp [Nat.xor_assoc]

/-- The number of bits bounds a number (R251). -/
theorem lt_two_pow_bitLength (a : Nat) : a < 2 ^ bitLength a := by
  unfold bitLength
  split
  · simp_all
  · exact Nat.lt_log2_self

theorem bitLength_le {a n : Nat} (h : a < 2 ^ n) : bitLength a ≤ n := by
  unfold bitLength
  split
  · exact Nat.zero_le _
  · exact (Nat.log2_lt ‹_›).2 h

/-- The steps for degrees above a's do nothing. -/
theorem polyModSteps_of_lt {n m a : Nat} (g k : Nat) (ha : a < 2 ^ (m + k)) (hmn : m ≤ n) :
    polyModSteps n a g k = polyModSteps m a g k := by
  induction n, hmn using Nat.le_induction with
  | base => rfl
  | succ n hmn ih =>
    have hbit : a.testBit (n + k) = false :=
      Nat.testBit_lt_two_pow (ha.trans_le (Nat.pow_le_pow_right (by decide) (by omega)))
    rw [polyModSteps, hbit]
    exact ih

theorem polyMod_eq_polyModSteps {n a : Nat} (g k : Nat) (ha : a < 2 ^ (n + k)) :
    polyMod a g k = polyModSteps n a g k := by
  have hbits := bitLength_le ha
  refine (polyModSteps_of_lt g k ?_ (by omega)).symm
  exact (lt_two_pow_bitLength a).trans_le (Nat.pow_le_pow_right (by decide) (by omega))

theorem polyMod_xor (a b g k : Nat) : polyMod (a ^^^ b) g k = polyMod a g k ^^^ polyMod b g k := by
  have ha : a < 2 ^ (max (bitLength a) (bitLength b) + k) :=
    (lt_two_pow_bitLength a).trans_le (Nat.pow_le_pow_right (by decide) (by omega))
  have hb : b < 2 ^ (max (bitLength a) (bitLength b) + k) :=
    (lt_two_pow_bitLength b).trans_le (Nat.pow_le_pow_right (by decide) (by omega))
  rw [polyMod_eq_polyModSteps g k (Nat.xor_lt_two_pow ha hb), polyMod_eq_polyModSteps g k ha,
    polyMod_eq_polyModSteps g k hb, polyModSteps_xor]

/-! The product of polynomials, reduced, is the sum of reduced multiples by powers of x (R200, R203). -/

/-- Each of the n reduction steps of a·x^n is one multiplication by α. -/
theorem polyModSteps_shiftLeft (n : Nat) (a : Byte) :
    polyModSteps n (a.toNat <<< n) 0x11D 8 = (xtime^[n] a).toNat := by
  induction n generalizing a with
  | zero => simp [polyModSteps]
  | succ n ih =>
    have hbit : (a.toNat <<< (n + 1)).testBit (n + 8) = a.getLsbD 7 := by
      rw [Nat.testBit_shiftLeft, show n + 8 - (n + 1) = 7 by omega]
      simp [BitVec.getLsbD]
    have hshift : a.toNat <<< (n + 1) = (2 * a.toNat) <<< n := Nat.shiftLeft_succ_inside _ _
    have hstep : (xtime a).toNat <<< n =
        if a.getLsbD 7 then a.toNat <<< (n + 1) ^^^ 0x11D <<< n else a.toNat <<< (n + 1) := by
      rw [toNat_xtime, Nat.shiftLeft_xor_distrib, hshift]
      cases a.getLsbD 7 <;> simp
    rw [polyModSteps, hbit, ← hstep, ih, Function.iterate_succ_apply]

theorem polyMod_shiftLeft (n : Nat) (a : Byte) : polyMod (a.toNat <<< n) 0x11D 8 = (xtime^[n] a).toNat := by
  have ha : a.toNat <<< n < 2 ^ (n + 8) := by
    rw [Nat.shiftLeft_eq, Nat.add_comm, Nat.pow_add]
    exact Nat.mul_lt_mul_of_pos_right a.isLt (Nat.two_pow_pos n)
  rw [polyMod_eq_polyModSteps _ _ ha, polyModSteps_shiftLeft]

/-- The terms of a·b from the highest down. -/
theorem mulBits_succ_last (n : Nat) (a b : Byte) :
    mulBits (n + 1) a b = mulBits n a b ^^^ (if b.getLsbD n then xtime^[n] a else 0x00) := by
  induction n generalizing a b with
  | zero => simp [mulBits]
  | succ n ih =>
    rw [mulBits, ih, mulBits, BitVec.getLsbD_ushiftRight, Nat.add_comm 1 n, Function.iterate_succ_apply,
      BitVec.xor_assoc]

/-- The unreduced product of a with the n low coefficients of b. -/
def partialProduct (n a b : Nat) : Nat :=
  (List.range n).foldl (fun acc i => if b.testBit i then acc ^^^ (a <<< i) else acc) 0

theorem partialProduct_eight (a b : Nat) : partialProduct 8 a b = polyProduct a b := rfl

theorem partialProduct_succ (n a b : Nat) :
    partialProduct (n + 1) a b = if b.testBit n then partialProduct n a b ^^^ a <<< n else partialProduct n a b := by
  rw [partialProduct, List.range_succ, List.foldl_append]
  rfl

theorem polyMod_partialProduct (n : Nat) (a b : Byte) :
    polyMod (partialProduct n a.toNat b.toNat) 0x11D 8 = (mulBits n a b).toNat := by
  induction n with
  | zero => exact (by decide : polyMod 0 0x11D 8 = 0)
  | succ n ih =>
    rw [partialProduct_succ, mulBits_succ_last, BitVec.toNat_xor, ← ih, BitVec.getLsbD]
    split
    · rw [polyMod_xor, polyMod_shiftLeft]
    · simp

theorem toNat_gfMul (a b : Byte) : (gfMul a b).toNat = polyMod (polyProduct a.toNat b.toNat) 0x11D 8 :=
  partialProduct_eight a.toNat b.toNat ▸ (polyMod_partialProduct 8 a b).symm

/-- Settles O33: the laws by exponents of α, the reduced product term by term. -/
theorem galoisProductIsTheFieldProduct : Obligations.GaloisProductIsTheFieldProduct := by
  refine ⟨fun a b => ⟨?_, gfMul_eq_expEntry, toNat_gfMul a b, gfMul_comm a b, one_gfMul a⟩,
    fun a b c => ⟨gfMul_assoc a b c, gfMul_xor a b c⟩, by decide⟩
  rintro (rfl | rfl)
  · exact zero_gfMul b
  · exact gfMul_zero a

end Sys2Proof.Machine
end

section
/-! PROOFS. The Reed-Solomon encoder (O34, O35, O36). A polynomial's value by Horner's rule from any accumulator; the
shift register keeps the value of the data followed by the register at every root of the generator. -/

namespace Sys2Proof.Machine

/-! Values of polynomials (R205). -/

/-- Horner's rule at x that goes on from the value u: u·x^|p| ⊕ p(x). -/
def horner (x u : Byte) (p : List Byte) : Byte := p.foldl (fun acc a => gfMul acc x ^^^ a) u

theorem evalPoly_eq_horner (p : List Byte) (x : Byte) : evalPoly p x = horner x 0x00 p := rfl

@[simp] theorem horner_nil (x u : Byte) : horner x u [] = u := rfl

@[simp] theorem horner_cons (x u a : Byte) (p : List Byte) : horner x u (a :: p) = horner x (gfMul u x ^^^ a) p := rfl

theorem horner_append (x u : Byte) (p q : List Byte) : horner x u (p ++ q) = horner x (horner x u p) q :=
  List.foldl_append

/-- Horner's rule is linear: adding a multiple of a polynomial of the same length adds that multiple of its value. -/
theorem horner_zipWith (x c u v : Byte) {p q : List Byte} (h : p.length = q.length) :
    horner x (u ^^^ gfMul c v) (List.zipWith (fun a g => a ^^^ gfMul c g) p q) =
      horner x u p ^^^ gfMul c (horner x v q) := by
  induction p generalizing q u v with
  | nil => rw [List.eq_nil_of_length_eq_zero h.symm]; rfl
  | cons a p ih =>
    obtain ⟨g, q, rfl⟩ := List.exists_cons_of_length_eq_add_one h.symm
    have hhead : gfMul (u ^^^ gfMul c v) x ^^^ (a ^^^ gfMul c g) =
        (gfMul u x ^^^ a) ^^^ gfMul c (gfMul v x ^^^ g) := by
      rw [xor_gfMul, gfMul_assoc, gfMul_xor]
      ac_rfl
    rw [List.zipWith_cons_cons, horner_cons, hhead, ih _ _ (Nat.succ.inj h), horner_cons, horner_cons]

/-! The generator (R204). -/

theorem genPoly_succ (n : Nat) : genPoly (n + 1) =
    List.zipWith (fun a g => a ^^^ gfMul (alphaPow n) g) (genPoly n ++ [0x00]) (0x00 :: genPoly n) := by
  have hmap : 0x00 :: (genPoly n).map (gfMul (alphaPow n)) = (0x00 :: genPoly n).map (gfMul (alphaPow n)) := by simp
  rw [genPoly, hmap, List.zipWith_map_right]

/-- The generator is monic (R204). -/
theorem genPoly_eq_cons (n : Nat) : genPoly n = 0x01 :: (genPoly n).tail := by
  induction n with
  | zero => rfl
  | succ n ih =>
    rw [genPoly_succ, ih]
    simp

/-- g_{n+1}(x) = g_n(x) ⊗ (x ⊕ α^n) (R204). -/
theorem evalPoly_genPoly_succ (n : Nat) (x : Byte) :
    evalPoly (genPoly (n + 1)) x = gfMul (evalPoly (genPoly n) x) (x ^^^ alphaPow n) := by
  have hlinear := horner_zipWith x (alphaPow n) 0x00 0x00 (p := genPoly n ++ [0x00]) (q := 0x00 :: genPoly n) (by simp)
  rw [← genPoly_succ] at hlinear
  rw [gfMul_xor, gfMul_comm _ (alphaPow n)]
  simpa [evalPoly_eq_horner, horner_append] using hlinear

/-- The roots of the generator (R204). -/
theorem evalPoly_genPoly {n i : Nat} (hi : i < n) : evalPoly (genPoly n) (alphaPow i) = 0x00 := by
  induction n with
  | zero => omega
  | succ n ih =>
    rw [evalPoly_genPoly_succ]
    obtain hi | rfl := Nat.lt_succ_iff_lt_or_eq.1 hi
    · simp [ih hi]
    · simp

/-! The shift register (R205, R206). -/

/-- One step of the register is multiplication by x, at a root of the generator: g(x) = 0 says that x^n is the value of
the taps, and the step adds the same multiple of both. -/
theorem horner_lfsrStep {n : Nat} {x : Byte} (hx : evalPoly (genPoly n) x = 0x00) (hn : 0 < n) (u d : Byte)
    {r : List Byte} (hr : r.length = n) :
    horner x (gfMul u x ^^^ d) (lfsrStep (genPoly n).tail r d) = gfMul (horner x u r) x := by
  obtain ⟨r₀, t, rfl⟩ := List.exists_cons_of_length_pos (hr ▸ hn)
  have htaps : horner x 0x01 (genPoly n).tail = 0x00 := by
    rw [evalPoly_eq_horner, genPoly_eq_cons] at hx
    simpa using hx
  have hhead : gfMul u x ^^^ d = (gfMul u x ^^^ r₀) ^^^ gfMul (d ^^^ r₀) 0x01 := by
    rw [BitVec.xor_comm d r₀, BitVec.xor_assoc]
    simp [← BitVec.xor_assoc r₀]
  rw [hhead, lfsrStep, List.headD_cons, List.tail_cons, horner_zipWith _ _ _ _ (by simpa using hr), htaps]
  simp [horner_append]

/-- Shifting data in keeps the value of data and register at 0, at a root of the generator. -/
theorem horner_foldl_lfsrStep {n : Nat} {x : Byte} (hx : evalPoly (genPoly n) x = 0x00) (hn : 0 < n) (d : List Byte)
    {u : Byte} {r : List Byte} (hr : r.length = n) (hzero : horner x u r = 0x00) :
    horner x (horner x u d) (d.foldl (lfsrStep (genPoly n).tail) r) = 0x00 := by
  induction d generalizing u r with
  | nil => exact hzero
  | cons a d ih =>
    refine ih ?_ ?_
    · rw [lfsrStep_length _ _ _ (by simp [hr])]
      simp
    · rw [horner_lfsrStep hx hn u a hr, hzero]
      exact zero_gfMul x

theorem horner_replicate_zero (x : Byte) (n : Nat) : horner x 0x00 (List.replicate n 0x00) = 0x00 := by
  induction n with
  | zero => rfl
  | succ n ih => simpa [List.replicate_succ] using ih

/-- Settles O34: the register starts at 0, and the data is shifted into it. -/
theorem parityMakesACodeword : Obligations.ParityMakesACodeword := by
  refine fun d n => ⟨rsParity_length d n, fun i hi => ?_⟩
  rw [evalPoly_eq_horner, horner_append]
  exact horner_foldl_lfsrStep (evalPoly_genPoly hi) (by omega) d List.length_replicate (horner_replicate_zero _ n)

/-- Settles O35: the shift register, run. -/
theorem textbookVectorIsReproduced : Obligations.TextbookVectorIsReproduced := by
  unfold Obligations.TextbookVectorIsReproduced
  decide +kernel

/-! What a command writes to its result buffer, and no other byte (R45, R46, R101). -/

/-- A command that changes one buffer, and there only the first n bytes, changes no other byte that the host sees. -/
theorem byteAt_eq_of_outside {s t : State} {tgt : Target} {base n a : Nat}
    (hbase : ∀ row ∈ memoryMap, row.target = tgt → row.base = base)
    (hother : ∀ u, u ≠ tgt → windowByte t u = windowByte s u)
    (hrest : ∀ i, n ≤ i → windowByte t tgt i = windowByte s tgt i) (ha : a < base ∨ base + n ≤ a) :
    t.byteAt a = s.byteAt a := by
  refine byteAt_congr fun row hmem hlow _ => ?_
  by_cases ht : row.target = tgt
  · have hrow := hbase row hmem ht
    rw [ht, hrest _ (by omega)]
  · rw [hother _ ht]

/-- A run written from index 0 on reads back. -/
theorem read_writeRun_zero {α : Type} {m : Memory α} (hm : m.wf = true) {vs : List α} {i : Nat} (hi : i < vs.length) :
    (m.writeRun 0 vs).read i = vs[i]? := by
  rw [Memory.read_writeRun m hm, if_pos (by omega), Nat.sub_zero]

/-- A run written from index 0 on changes nothing behind its end. -/
theorem read_writeRun_zero_of_le {α : Type} {m : Memory α} (hm : m.wf = true) {vs : List α} {i : Nat}
    (hi : vs.length ≤ i) : (m.writeRun 0 vs).read i = m.read i := by
  rw [Memory.read_writeRun m hm, if_neg (by omega)]

theorem readData_eq_some {s : State} {off n : Nat} {d : List Byte} (hs : s.dbuf.wf = true) (hlen : d.length = n)
    (hread : ∀ i, i < n → s.dbuf.read (off + i) = d[i]?) : readData s off n = some d :=
  (Memory.readRun_eq_some_iff _ hs _ _ _).2 ⟨hlen, hread⟩

/-- Settles O36: the operands are in range and the data is there, so RSENC writes the parity to PBUF. -/
theorem rsencWritesTheParity : Obligations.RsencWritesTheParity := by
  intro s k nr d hwf hk hnr hsum hoff hlen hread
  obtain ⟨hdbuf, -, hpbuf, -, -⟩ := (memoryWf_iff s).1 hwf
  have hrange : badRsOperands k nr s.rsSrc.toNat = false := by
    simp only [badRsOperands, Bool.or_eq_false_iff, decide_eq_false_iff_not]
    omega
  refine ⟨_, (execRsenc_next k nr s _).2 (.inr ⟨hrange, d, readData_eq_some hdbuf hlen hread, rfl⟩), rfl,
    fun j hj => ?_, fun a ha => byteAt_eq_of_outside (tgt := .pbuf) (by decide) (fun u hu => ?_) (fun i hi => ?_) ha⟩
  · rw [byteAt_pbuf _ (by omega)]
    exact read_writeRun_zero hpbuf (by rwa [rsParity_length])
  · cases u with
    | pbuf => exact absurd rfl hu
    | _ => rfl
  · exact read_writeRun_zero_of_le hpbuf (by rwa [rsParity_length])

end Sys2Proof.Machine
end

section
/-! PROOFS. The block table and the interleaved sequence (O38, O39). Where a block starts and how long it is, where the
rounds put its codewords, and what ECCBLD therefore writes. -/

namespace Sys2Proof.Machine

/-! The block table (R220, R221, R222). -/

/-- D codewords in n1 + n2 blocks: k1 each, and one more for n2 of them. -/
theorem Blocks.dataCodewords_eq_mul_add (b : Blocks) : b.dataCodewords = b.k1 * (b.n1 + b.n2) + b.n2 := by
  unfold Blocks.dataCodewords
  ring

/-- The bounds of every block partition, row by row of the table (R222). -/
theorem blockPlan_bounds {v : Nat} (h1 : 1 ≤ v) (h40 : v ≤ 40) (lvl : Level) :
    1 ≤ (blockPlan v lvl).n1 ∧ (blockPlan v lvl).n1 + (blockPlan v lvl).n2 ≤ 81 ∧
      7 ≤ (blockPlan v lvl).e ∧ (blockPlan v lvl).e ≤ 30 ∧ (blockPlan v lvl).k1 + 1 + (blockPlan v lvl).e ≤ 153 := by
  interval_cases v <;> cases lvl <;> decide

/-- D rises with the version (R222). -/
theorem dataCodewords_lt_succ {v : Nat} (h1 : 1 ≤ v) (h40 : v < 40) (lvl : Level) :
    dataCodewords v lvl < dataCodewords (v + 1) lvl := by
  interval_cases v <;> cases lvl <;> decide

/-- D falls with the level (R222). -/
theorem dataCodewords_level_lt {v : Nat} (h1 : 1 ≤ v) (h40 : v ≤ 40) :
    dataCodewords v .m < dataCodewords v .l ∧ dataCodewords v .q < dataCodewords v .m ∧
      dataCodewords v .h < dataCodewords v .q := by
  interval_cases v <;> decide

theorem totalCodewords_bounds {v : Nat} (h1 : 1 ≤ v) (h40 : v ≤ 40) :
    26 ≤ totalCodewords v ∧ totalCodewords v ≤ 3706 := by
  interval_cases v <;> decide

theorem dataCodewords_bounds {v : Nat} (h1 : 1 ≤ v) (h40 : v ≤ 40) (lvl : Level) :
    9 ≤ dataCodewords v lvl ∧ dataCodewords v lvl ≤ 2956 := by
  interval_cases v <;> cases lvl <;> decide

/-- Settles O38: D is n1 + n2 blocks of k1 and a rest of n2 < n1 + n2; the bounds and columns are the table's. -/
theorem blockTableIsConsistent : Obligations.BlockTableIsConsistent := by
  refine ⟨fun v h1 h40 lvl => ?_, fun v h1 h40 => ?_, rfl, rfl, rfl, rfl, rfl, rfl, rfl, rfl, rfl, rfl, rfl⟩
  · obtain ⟨hn1, hn, he7, he30, hlen⟩ := blockPlan_bounds h1 h40 lvl
    obtain ⟨hlow, hhigh⟩ := dataCodewords_bounds h1 h40 lvl
    have hD : dataCodewords v lvl = _ := (blockPlan v lvl).dataCodewords_eq_mul_add
    have hT := (codewords_of_version ((legalVersion_iff v).2 ⟨h1, h40⟩) lvl).1
    refine ⟨rfl, ?_, ?_, hT, by omega, hn, he7, he30, hlen, hlow, hhigh, fun h => dataCodewords_lt_succ h1 h lvl⟩
    · rw [hD, Nat.mul_comm, Nat.mul_add_div (by omega), Nat.div_eq_of_lt (by omega), Nat.add_zero]
    · rw [hD, Nat.mul_comm, Nat.mul_add_mod, Nat.mod_eq_of_lt (by omega)]
  · obtain ⟨hm, hq, hh⟩ := dataCodewords_level_lt h1 h40
    obtain ⟨hlow, hhigh⟩ := totalCodewords_bounds h1 h40
    exact ⟨hm, hq, hh, hlow, hhigh⟩

/-! Where the blocks lie in the data (R223). -/

/-- The index of block j's first data codeword (R223). -/
def Blocks.start (b : Blocks) (j : Nat) : Nat := j * b.k1 + (j - b.n1)

/-- The number of block j's data codewords (R223). -/
def Blocks.len (b : Blocks) (j : Nat) : Nat := if j < b.n1 then b.k1 else b.k1 + 1

theorem getElem?_cutBlocks (ns : List Nat) (d : List Byte) (j : Nat) :
    (cutBlocks ns d)[j]? = ns[j]?.map fun n => (d.drop (ns.take j).sum).take n := by
  induction ns generalizing d j with
  | nil => rfl
  | cons n ns ih =>
    cases j with
    | zero => rfl
    | succ j =>
      rw [cutBlocks, List.getElem?_cons_succ, ih, List.getElem?_cons_succ, List.take_succ_cons, List.sum_cons,
        List.drop_drop]

theorem length_blocks (b : Blocks) (d : List Byte) : (cutBlocks b.lengths d).length = b.n1 + b.n2 := by
  rw [cutBlocks_length, blocks_lengths_length]

theorem getElem?_lengths (b : Blocks) {j : Nat} (hj : j < b.n1 + b.n2) : b.lengths[j]? = some (b.len j) := by
  unfold Blocks.lengths Blocks.len
  split
  · rw [List.getElem?_append_left (by simpa), List.getElem?_replicate_of_lt ‹_›]
  · rw [List.getElem?_append_right (by simp; omega), List.length_replicate,
      List.getElem?_replicate_of_lt (by omega)]

/-- A block starts where the blocks before it end. -/
theorem sum_take_lengths (b : Blocks) {j : Nat} (hj : j ≤ b.n1 + b.n2) : (b.lengths.take j).sum = b.start j := by
  simp only [Blocks.lengths, Blocks.start, List.take_append, List.take_replicate, List.length_replicate, List.sum_append,
    List.sum_replicate, smul_eq_mul]
  obtain h | h := Nat.le_total j b.n1
  · simp [h]
  · rw [Nat.min_eq_right h, Nat.min_eq_left (by omega), Nat.mul_succ, ← Nat.add_assoc, ← Nat.add_mul,
      Nat.add_sub_cancel' h]

/-- Block j holds the codewords from its start on (R223). -/
theorem getElem?_blocks (b : Blocks) (d : List Byte) {j : Nat} (hj : j < b.n1 + b.n2) :
    (cutBlocks b.lengths d)[j]? = some ((d.drop (b.start j)).take (b.len j)) := by
  rw [getElem?_cutBlocks, getElem?_lengths b hj, sum_take_lengths b hj.le]
  rfl

theorem getElem?_block (b : Blocks) (d : List Byte) {i j : Nat} (hi : i < b.len j) :
    ((d.drop (b.start j)).take (b.len j))[i]? = d[b.start j + i]? := by
  rw [List.getElem?_take_of_lt hi, List.getElem?_drop]

/-! Where the rounds put the codewords (R224). -/

theorem roundRobin_succ (rounds : Nat) (blocks : List (List Byte)) :
    roundRobin (rounds + 1) blocks = roundRobin rounds blocks ++ blocks.filterMap fun blk => blk[rounds]? := by
  rw [roundRobin, List.range_succ, List.flatMap_append, List.flatMap_singleton]
  rfl

/-- A round for which every block has a codeword takes one from each, in order. -/
theorem getElem?_round {i : Nat} {blocks : List (List Byte)} (hfull : ∀ blk ∈ blocks, i < blk.length) (j : Nat) :
    (blocks.filterMap fun blk => blk[i]?)[j]? = blocks[j]?.bind fun blk => blk[i]? := by
  induction blocks generalizing j with
  | nil => rfl
  | cons blk blocks ih =>
    obtain ⟨hblk, hrest⟩ := List.forall_mem_cons.1 hfull
    rw [List.filterMap_cons, List.getElem?_eq_getElem hblk]
    cases j with
    | zero => simp [hblk]
    | succ j => exact ih hrest j

theorem length_roundRobin_of_full {rounds : Nat} {blocks : List (List Byte)}
    (hfull : ∀ blk ∈ blocks, rounds ≤ blk.length) : (roundRobin rounds blocks).length = rounds * blocks.length := by
  rw [roundRobin_length, List.map_congr_left fun blk hblk => Nat.min_eq_left (hfull blk hblk), List.map_const',
    List.sum_replicate, smul_eq_mul, Nat.mul_comm]

/-- An index in row i of a rectangle of n rows lies in the rectangle. -/
theorem rowIndex_lt {i j n w : Nat} (hi : i < n) (hj : j < w) : i * w + j < n * w :=
  calc i * w + j < (i + 1) * w := by rw [Nat.succ_mul]; omega
    _ ≤ n * w := Nat.mul_le_mul_right w hi

/-- Rounds for which every block has a codeword fill a rectangle, row by row. -/
theorem getElem?_roundRobin {rounds : Nat} {blocks : List (List Byte)} (hfull : ∀ blk ∈ blocks, rounds ≤ blk.length)
    {i j : Nat} (hi : i < rounds) (hj : j < blocks.length) :
    (roundRobin rounds blocks)[i * blocks.length + j]? = blocks[j]?.bind fun blk => blk[i]? := by
  induction rounds with
  | zero => omega
  | succ n ih =>
    have hfull' : ∀ blk ∈ blocks, n ≤ blk.length := fun blk hblk => (Nat.le_succ n).trans (hfull blk hblk)
    have hlength := length_roundRobin_of_full hfull'
    rw [roundRobin_succ]
    obtain hi | rfl := Nat.lt_succ_iff_lt_or_eq.1 hi
    · rw [List.getElem?_append_left (hlength ▸ rowIndex_lt hi hj), ih hfull' hi]
    · rw [List.getElem?_append_right (by omega), hlength, Nat.add_sub_cancel_left, getElem?_round hfull]

/-! The interleaved sequence (R224). -/

section
variable (b : Blocks) {d : List Byte} {i j : Nat} (hd : d.length = b.dataCodewords)
include hd

theorem map_length_blocks : (cutBlocks b.lengths d).map List.length = b.lengths :=
  cutBlocks_map_length _ _ (by rw [hd, blocks_lengths_sum])

theorem length_of_mem_blocks : ∀ blk ∈ cutBlocks b.lengths d, blk.length ∈ b.lengths :=
  fun _ hblk => map_length_blocks b hd ▸ List.mem_map_of_mem hblk

theorem k1_le_length_of_mem : ∀ blk ∈ cutBlocks b.lengths d, b.k1 ≤ blk.length := by
  intro blk hblk
  have hmem := length_of_mem_blocks b hd blk hblk
  simp only [Blocks.lengths, List.mem_append, List.mem_replicate] at hmem
  omega

/-- The round that only the longer blocks take part in (R224). -/
theorem lastRound_eq : ((cutBlocks b.lengths d).filterMap fun blk => blk[b.k1]?) =
    ((cutBlocks b.lengths d).drop b.n1).filterMap fun blk => blk[b.k1]? := by
  have hshort : ((cutBlocks b.lengths d).take b.n1).filterMap (fun blk => blk[b.k1]?) = [] := by
    refine List.filterMap_eq_nil_iff.2 fun blk hblk => List.getElem?_eq_none ?_
    have hmem := List.mem_map_of_mem (f := List.length) hblk
    rw [List.map_take, map_length_blocks b hd, Blocks.lengths, List.take_left' List.length_replicate] at hmem
    exact (List.eq_of_mem_replicate hmem).le
  conv_lhs => rw [← List.take_append_drop b.n1 (cutBlocks b.lengths d), List.filterMap_append, hshort, List.nil_append]

theorem length_of_mem_longer : ∀ blk ∈ (cutBlocks b.lengths d).drop b.n1, b.k1 < blk.length := by
  intro blk hblk
  have hmem := List.mem_map_of_mem (f := List.length) hblk
  rw [List.map_drop, map_length_blocks b hd, Blocks.lengths, List.drop_left' List.length_replicate] at hmem
  exact (List.eq_of_mem_replicate hmem).ge

theorem length_dataRounds : (roundRobin (b.k1 + 1) (cutBlocks b.lengths d)).length = d.length := by
  rw [roundRobin_length_of_le, map_length_blocks b hd, blocks_lengths_sum, hd]
  exact fun blk hblk => mem_lengths_le b _ (length_of_mem_blocks b hd blk hblk)

/-- Round i < k1 takes codeword i of every block, in order. -/
theorem getElem?_codewordSequence_data (hi : i < b.k1) (hj : j < b.n1 + b.n2) :
    (codewordSequence b d)[i * (b.n1 + b.n2) + j]? = d[b.start j + i]? := by
  have hfull := k1_le_length_of_mem b hd
  have hrect := getElem?_roundRobin hfull hi ((length_blocks b d).symm ▸ hj)
  have hlength := length_roundRobin_of_full hfull
  rw [length_blocks] at hrect hlength
  have hin : i * (b.n1 + b.n2) + j < b.k1 * (b.n1 + b.n2) := rowIndex_lt hi hj
  have hlen : i < b.len j := by unfold Blocks.len; split <;> omega
  rw [codewordSequence, roundRobin_succ, List.append_assoc, List.getElem?_append_left (hlength ▸ hin), hrect,
    getElem?_blocks b d hj, Option.bind_some, getElem?_block b d hlen]

/-- Round k1 takes the last codeword of every longer block, in order. -/
theorem getElem?_codewordSequence_last (hn : b.n1 ≤ j) (hj : j < b.n1 + b.n2) :
    (codewordSequence b d)[b.k1 * (b.n1 + b.n2) + (j - b.n1)]? = d[b.start j + b.k1]? := by
  have hlength := length_roundRobin_of_full (k1_le_length_of_mem b hd)
  rw [length_blocks] at hlength
  have htotal := length_dataRounds b hd
  have hlen : b.k1 < b.len j := by rw [Blocks.len, if_neg (by omega)]; omega
  have hin : b.k1 * (b.n1 + b.n2) + (j - b.n1) < d.length := by
    rw [hd, b.dataCodewords_eq_mul_add]
    omega
  rw [codewordSequence, List.getElem?_append_left (htotal ▸ hin), roundRobin_succ,
    List.getElem?_append_right (by omega), hlength, Nat.add_sub_cancel_left, lastRound_eq b hd,
    getElem?_round (length_of_mem_longer b hd), List.getElem?_drop, Nat.add_sub_cancel' hn, getElem?_blocks b d hj,
    Option.bind_some, getElem?_block b d hlen]

/-- Behind the data, round i takes parity codeword i of every block, in order. -/
theorem getElem?_codewordSequence_parity (hi : i < b.e) (hj : j < b.n1 + b.n2) :
    (codewordSequence b d)[d.length + i * (b.n1 + b.n2) + j]? =
      (rsParity ((d.drop (b.start j)).take (b.len j)) b.e)[i]? := by
  have hcount : ((cutBlocks b.lengths d).map fun blk => rsParity blk b.e).length = b.n1 + b.n2 := by
    rw [List.length_map, length_blocks]
  have hfull : ∀ blk ∈ (cutBlocks b.lengths d).map (fun blk => rsParity blk b.e), b.e ≤ blk.length := by
    simp
  have hrect := getElem?_roundRobin hfull hi (hcount.symm ▸ hj)
  rw [hcount] at hrect
  have htotal := length_dataRounds b hd
  rw [codewordSequence, List.getElem?_append_right (by omega), htotal, Nat.add_assoc, Nat.add_sub_cancel_left, hrect,
    List.getElem?_map, getElem?_blocks b d hj]
  rfl

end

/-! ECCBLD (R225). -/

/-- A run written to SEQ from 0 on is what the host reads there (R45, R101). -/
theorem byteAt_seq_of_writeRun {s t : State} {vs : List Byte} {p : Nat} (hs : s.seq.wf = true)
    (ht : t.seq = s.seq.writeRun 0 vs) (hvs : vs.length ≤ 4096) (hp : p < vs.length) :
    t.byteAt (0x02000 + p) = vs[p]? := by
  rw [byteAt_seq t (by omega), ht, read_writeRun_zero hs hp]

/-- Settles O39: ECCBLD writes the interleaved sequence to SEQ from 0 on. -/
theorem eccbldWritesTheInterleavedBlocks : Obligations.EccbldWritesTheInterleavedBlocks := by
  intro s d hwf h1 h40 hd hread b start len
  obtain ⟨hdbuf, hseq, -, -, -⟩ := (memoryWf_iff s).1 hwf
  have hv : legalVersion s.version = true := (legalVersion_iff _).2 ⟨h1, h40⟩
  obtain ⟨hT, hTmax⟩ := codewords_of_version hv s.config.level
  have hdata : readData s 0 (dataCodewords s.version s.config.level) = some d :=
    readData_eq_some hdbuf hd fun i hi => by rw [Nat.zero_add]; exact hread i (hd ▸ hi)
  have hlength : (codewordSequence b d).length = totalCodewords s.version := (codewordSequence_length b d hd).trans hT
  have hrounds : d.length = b.k1 * (b.n1 + b.n2) + b.n2 := hd.trans b.dataCodewords_eq_mul_add
  have htotal : d.length + b.e * (b.n1 + b.n2) = (codewordSequence b d).length := by
    rw [hlength, ← hT, hd, Nat.mul_comm]
  have hfits : (codewordSequence b d).length ≤ 4096 := hlength.trans_le hTmax
  have hbody := (eccbldBody_next s _).2 ⟨d, hdata, rfl⟩
  refine ⟨_, (execEccbld_next s _).2 (.inr ⟨hv, _, hbody, rfl⟩), by rw [hd]; rfl, fun i j hi hj => ?_,
    fun j hn hj => ?_, fun i j hi hj => ?_, fun a ha =>
    byteAt_eq_of_outside (tgt := .seq) (by decide) (fun u hu => ?_) (fun i hi => ?_) ha⟩
  · have hrow := rowIndex_lt hi hj
    rw [byteAt_seq_of_writeRun hseq rfl hfits (by omega)]
    exact getElem?_codewordSequence_data b hd hi hj
  · rw [byteAt_seq_of_writeRun hseq rfl hfits (by omega)]
    exact getElem?_codewordSequence_last b hd hn hj
  · have hrow := rowIndex_lt hi hj
    rw [byteAt_seq_of_writeRun hseq rfl hfits (by omega)]
    exact getElem?_codewordSequence_parity b hd hi hj
  · cases u with
    | seq => exact absurd rfl hu
    | _ => rfl
  · exact read_writeRun_zero_of_le hseq (hlength.trans_le hi)

end Sys2Proof.Machine
end

section
/-! PROOFS. FMTINFO and VERINFO (O30, O31). A systematic BCH word leaves no remainder because POLYMOD is linear and
leaves a remainder of k bits as it is. -/

namespace Sys2Proof.Machine

/-! The remainder of a division by a degree-k polynomial (R251). -/

theorem lt_two_pow_of_testBit_false {x m : Nat} (hx : x < 2 ^ (m + 1)) (hbit : x.testBit m = false) : x < 2 ^ m := by
  by_contra hle
  rw [Nat.testBit_of_two_pow_le_and_two_pow_add_one_gt (Nat.not_lt.1 hle) hx] at hbit
  exact Bool.noConfusion hbit

/-- A step of POLYMOD clears the highest bit: g shifted by n has its own highest bit there. -/
theorem polyMod_step_lt {n a g k : Nat} (hg : g < 2 ^ (k + 1)) (hgk : g.testBit k = true)
    (ha : a < 2 ^ (n + k + 1)) : (if a.testBit (n + k) then a ^^^ (g <<< n) else a) < 2 ^ (n + k) := by
  have hshift : g <<< n < 2 ^ (n + k + 1) := by
    rw [Nat.add_assoc, Nat.add_comm, Nat.pow_add, Nat.shiftLeft_eq]
    exact Nat.mul_lt_mul_of_pos_right hg (Nat.two_pow_pos n)
  split
  case isTrue hbit =>
    exact lt_two_pow_of_testBit_false (Nat.xor_lt_two_pow ha hshift) (by simp [hbit, hgk, Nat.testBit_shiftLeft])
  case isFalse hbit => exact lt_two_pow_of_testBit_false ha (by simpa using hbit)

theorem polyModSteps_lt {n a g k : Nat} (hg : g < 2 ^ (k + 1)) (hgk : g.testBit k = true) (ha : a < 2 ^ (n + k)) :
    polyModSteps n a g k < 2 ^ k := by
  induction n generalizing a with
  | zero => simpa [polyModSteps] using ha
  | succ n ih => exact ih (polyMod_step_lt hg hgk (by rwa [Nat.add_right_comm] at ha))

/-- The remainder has k bits (R251). -/
theorem polyMod_lt {g k : Nat} (a : Nat) (hg : g < 2 ^ (k + 1)) (hgk : g.testBit k = true) :
    polyMod a g k < 2 ^ k :=
  polyModSteps_lt hg hgk ((lt_two_pow_bitLength a).trans_le (Nat.pow_le_pow_right (by decide) (by omega)))

theorem polyMod_of_lt {a k : Nat} (g : Nat) (ha : a < 2 ^ k) : polyMod a g k = a :=
  polyMod_eq_polyModSteps (n := 0) g k (by simpa using ha)

/-- A word with its remainder added is a multiple of the polynomial. -/
theorem polyMod_xor_polyMod {g k : Nat} (a : Nat) (hg : g < 2 ^ (k + 1)) (hgk : g.testBit k = true) :
    polyMod (a ^^^ polyMod a g k) g k = 0 := by
  rw [polyMod_xor, polyMod_of_lt g (polyMod_lt a hg hgk), Nat.xor_self]

/-- Check bits that fit below the shifted data may be set or added. -/
theorem shiftLeft_or_eq_xor {r k : Nat} (a : Nat) (hr : r < 2 ^ k) : a <<< k ||| r = a <<< k ^^^ r := by
  refine Nat.eq_of_testBit_eq fun i => ?_
  rw [Nat.testBit_or, Nat.testBit_xor, Nat.testBit_shiftLeft]
  by_cases hi : k ≤ i
  · have hbit : r.testBit i = false := Nat.testBit_lt_two_pow (hr.trans_le (Nat.pow_le_pow_right (by decide) hi))
    simp [hbit]
  · simp [hi]

/-! The version word (R254, R255). -/

/-- The check bits of VER(v) fit below the version. -/
theorem versionCheck_lt (v : Nat) : polyMod (v <<< 12) 0x1F25 12 < 2 ^ 12 := polyMod_lt _ (by decide) (by decide)

theorem toNat_versionWord {v : Nat} (hv : v < 64) :
    (versionWord v).toNat = v <<< 12 ||| polyMod (v <<< 12) 0x1F25 12 := by
  refine Nat.mod_eq_of_lt (Nat.or_lt_two_pow ?_ ((versionCheck_lt v).trans (by decide)))
  rw [Nat.shiftLeft_eq]
  omega

/-- Bits [17:12] of VER(v) are the version (R255). -/
theorem extractLsb'_versionWord {v : Nat} (hv : v < 64) : ((versionWord v).extractLsb' 12 6).toNat = v := by
  have hcheck : polyMod (v <<< 12) 0x1F25 12 >>> 12 = 0 := Nat.shiftRight_eq_zero _ _ (versionCheck_lt v)
  rw [BitVec.extractLsb'_toNat, toNat_versionWord hv, Nat.shiftRight_or_distrib, hcheck, Nat.shiftLeft_shiftRight,
    Nat.or_zero, Nat.mod_eq_of_lt hv]

/-- VER(v) is a multiple of the generator (R254). -/
theorem polyMod_versionWord {v : Nat} (hv : v < 64) : polyMod (versionWord v).toNat 0x1F25 12 = 0 := by
  rw [toNat_versionWord hv, shiftLeft_or_eq_xor _ (versionCheck_lt v)]
  exact polyMod_xor_polyMod _ (by decide) (by decide)

/-- Settles O30: FMTINFO completes with the format word; the indicators and R252's words are evaluated. -/
theorem fmtinfoWritesTheFormatWord : Obligations.FmtinfoWritesTheFormatWord :=
  ⟨fun lvl m s => (execFmtinfo_next lvl m s _).2 rfl, by decide⟩

/-- Settles O31: in range VERINFO completes with the version word, a systematic code word; R256's are evaluated. -/
theorem verinfoWritesTheVersionWord : Obligations.VerinfoWritesTheVersionWord :=
  ⟨fun v s h7 h40 => (execVerinfo_next v s _).2 (.inr ⟨⟨h7, h40⟩, rfl⟩),
    fun v _ h40 => ⟨extractLsb'_versionWord (by omega), polyMod_versionWord (by omega)⟩, by decide⟩

end Sys2Proof.Machine
end

section
/-! PROOFS. The frame that FRMINIT draws (O40 to O44, O49). The drawing steps write over one another, so first where
each step draws at all, and then, area by area, which one is the last to draw. -/

namespace Sys2Proof.Machine

/-! The alignment centres (R276). -/

/-- A centre is even; it is 6, or the last one w − 7, or lies well between the two, and then the version is at
least 7. -/
theorem alignCentres_cases : ∀ v ≤ 40, ∀ p ∈ alignCentres v, p % 2 = 0 ∧ 2 ≤ v ∧
    (p = 6 ∨ p + 7 = symbolWidth v ∨ (7 ≤ v ∧ 22 ≤ p ∧ p + 23 ≤ symbolWidth v)) := by decide

/-- Two centres lie more than four apart. -/
theorem alignCentres_far : ∀ v ≤ 40, ∀ p ∈ alignCentres v, ∀ q ∈ alignCentres v,
    p = q ∨ p + 5 ≤ q ∨ q + 5 ≤ p := by decide

theorem absDiff_le_iff (a b n : Nat) : absDiff a b ≤ n ↔ a ≤ b + n ∧ b ≤ a + n := by
  unfold absDiff; omega

/-- The centre near x is the one within two of it. -/
theorem centreNear_eq_some_iff {v x p : Nat} (hv : v ≤ 40) :
    centreNear v x = some p ↔ p ∈ alignCentres v ∧ p ≤ x + 2 ∧ x ≤ p + 2 := by
  have hnear : ∀ q, centreNear v x = some q → q ∈ alignCentres v ∧ q ≤ x + 2 ∧ x ≤ q + 2 := by
    intro q hq
    have hdist := List.find?_some hq
    exact ⟨List.mem_of_find?_eq_some hq, (absDiff_le_iff ..).1 (of_decide_eq_true hdist)⟩
  refine ⟨hnear p, fun ⟨hp, hdist⟩ => ?_⟩
  cases hq : centreNear v x with
  | none =>
    have hfar := List.find?_eq_none.1 hq p hp
    exact absurd (decide_eq_true ((absDiff_le_iff p x 2).2 hdist)) hfar
  | some q =>
    obtain ⟨hqc, hqdist⟩ := hnear q hq
    have := alignCentres_far v hv p hp q hqc
    rw [show q = p by omega]

theorem overlapsFinder_iff (w p q : Nat) :
    overlapsFinder w p q = true ↔ (p = 6 ∧ q = 6) ∨ (p = 6 ∧ q = w - 7) ∨ (p = w - 7 ∧ q = 6) := by
  simp [overlapsFinder, or_assoc]

/-- The alignment step draws at (r, c) when both have a centre near and the pair overlaps no finder (R275, R276). -/
theorem drawAlignment_eq_some_iff {v r c : Nat} {cell : Cell} : drawAlignment v r c = some cell ↔
    ∃ p q, centreNear v r = some p ∧ centreNear v c = some q ∧ ¬ overlapsFinder (symbolWidth v) p q = true ∧
      cell = func (max (absDiff r p) (absDiff c q) != 1) := by
  unfold drawAlignment
  cases centreNear v r <;> cases centreNear v c <;> simp [@eq_comm _ cell]

theorem overlapsFinder_comm (w p q : Nat) : overlapsFinder w p q = overlapsFinder w q p := by
  rw [Bool.eq_iff_iff, overlapsFinder_iff, overlapsFinder_iff]
  omega

theorem drawAlignment_comm (v r c : Nat) : drawAlignment v r c = drawAlignment v c r := by
  unfold drawAlignment
  cases centreNear v r with
  | none => cases centreNear v c <;> rfl
  | some p =>
    cases centreNear v c with
    | none => rfl
    | some q => simp only [overlapsFinder_comm _ p q, max_comm]

/-! The areas of a frame. -/

/-- The three corners: the finders, their separators and the format-information cells around them. -/
def cornerArea (w r c : Nat) : Prop := (r ≤ 8 ∧ c ≤ 8) ∨ (r ≤ 8 ∧ w ≤ c + 8) ∨ (w ≤ r + 8 ∧ c ≤ 8)

/-- The format-information cells (R273): the two copies, without the timing patterns and the dark module. -/
def formatArea (w r c : Nat) : Prop :=
  (r = 8 ∧ (c ≤ 8 ∧ c ≠ 6 ∨ w ≤ c + 8)) ∨ (c = 8 ∧ (r ≤ 8 ∧ r ≠ 6 ∨ w ≤ r + 7))

/-- The two version-information areas (R278). -/
def versionArea (w r c : Nat) : Prop := (r ≤ 5 ∧ w ≤ c + 11 ∧ c + 9 ≤ w) ∨ (c ≤ 5 ∧ w ≤ r + 11 ∧ r + 9 ≤ w)

theorem drawDark_eq_none_iff (w r c : Nat) : drawDark w r c = none ↔ ¬ (r = w - 8 ∧ c = 8) := by
  simp [drawDark]

theorem drawVersion_eq_none_iff (v r c : Nat) :
    drawVersion v r c = none ↔ ¬ (7 ≤ v ∧ versionArea (symbolWidth v) r c) := by
  have hw : symbolWidth v = 17 + 4 * v := rfl
  unfold drawVersion versionArea
  dsimp only
  split_ifs <;> simp only [true_iff, false_iff] <;> omega

theorem drawTiming_eq_none_iff (w r c : Nat) : drawTiming w r c = none ↔
    ¬ (r = 6 ∧ 8 ≤ c ∧ c ≤ w - 9) ∧ ¬ (c = 6 ∧ 8 ≤ r ∧ r ≤ w - 9) := by
  unfold drawTiming
  split_ifs <;> simp only [true_iff, false_iff] <;> omega

theorem drawFormatReserve_eq_none_iff (w r c : Nat) : drawFormatReserve w r c = none ↔
    ¬ ((r = 8 ∧ c ≤ 8) ∨ (c = 8 ∧ r ≤ 8) ∨ (r = 8 ∧ w - 8 ≤ c) ∨ (c = 8 ∧ w - 8 ≤ r)) := by
  simp only [drawFormatReserve, ite_eq_right_iff, reduceCtorEq, imp_false]

/-- No alignment pattern reaches into a corner. -/
theorem drawAlignment_corner {v r c : Nat} (hv : v ≤ 40) (h : cornerArea (symbolWidth v) r c) :
    drawAlignment v r c = none := by
  have hw : symbolWidth v = 17 + 4 * v := rfl
  refine Option.eq_none_iff_forall_ne_some.2 fun cell hcell => ?_
  obtain ⟨p, q, hp, hq, hfree, -⟩ := drawAlignment_eq_some_iff.1 hcell
  rw [centreNear_eq_some_iff hv] at hp hq
  have hp' := alignCentres_cases v hv _ hp.1
  have hq' := alignCentres_cases v hv _ hq.1
  rw [overlapsFinder_iff] at hfree
  unfold cornerArea at h
  omega

theorem drawSeparators_eq_none_iff (w r c : Nat) : drawSeparators w r c = none ↔
    ¬ ((r = 7 ∧ c ≤ 7) ∨ (c = 7 ∧ r ≤ 7) ∨ (r = 7 ∧ w - 8 ≤ c) ∨ (c = w - 8 ∧ r ≤ 7) ∨ (r = w - 8 ∧ c ≤ 7) ∨
      (c = 7 ∧ w - 8 ≤ r)) := by
  simp only [drawSeparators, ite_eq_right_iff, reduceCtorEq, imp_false]

theorem drawFinders_eq_none_iff (w r c : Nat) : drawFinders w r c = none ↔
    ¬ ((r ≤ 6 ∧ c ≤ 6) ∨ (r ≤ 6 ∧ w - 7 ≤ c ∧ c ≤ w - 7 + 6) ∨ (w - 7 ≤ r ∧ r ≤ w - 7 + 6 ∧ c ≤ 6)) := by
  simp only [drawFinders, finderAt, Option.or_eq_none_iff, ite_eq_right_iff, reduceCtorEq, imp_false]
  omega

/-- The corners, row 6 and column 6 are drawn without gaps (R271 to R274). -/
theorem drawn_of_corner {v r c : Nat} (hr : r < symbolWidth v) (hc : c < symbolWidth v)
    (h : r = 6 ∨ c = 6 ∨ cornerArea (symbolWidth v) r c) (htiming : drawTiming (symbolWidth v) r c = none)
    (hreserve : drawFormatReserve (symbolWidth v) r c = none) :
    ((drawSeparators (symbolWidth v) r c).or (drawFinders (symbolWidth v) r c)) ≠ none := by
  have hw : symbolWidth v = 17 + 4 * v := rfl
  rw [ne_eq, Option.or_eq_none_iff, drawSeparators_eq_none_iff, drawFinders_eq_none_iff]
  rw [drawTiming_eq_none_iff] at htiming
  rw [drawFormatReserve_eq_none_iff] at hreserve
  unfold cornerArea at h
  obtain rfl | rfl | h | h | h := h <;> grind

/-! Every step but the two reserves draws FUNC cells. -/

/-- A drawing step writes a FUNC cell, if anything. -/
def drawsFunc (o : Option Cell) : Prop := ∀ cell, o = some cell → cell.kind = .func

theorem drawsFunc_none : drawsFunc none := fun _ h => nomatch h

theorem drawsFunc_some (b : Bool) : drawsFunc (some (func b)) := fun _ h => by cases h; rfl

theorem drawsFunc_or {a b : Option Cell} (ha : drawsFunc a) (hb : drawsFunc b) : drawsFunc (a.or b) := by
  cases a
  · exact hb
  · exact ha

theorem drawsFunc_drawDark (w r c : Nat) : drawsFunc (drawDark w r c) := by
  unfold drawDark; split
  · exact drawsFunc_some _
  · exact drawsFunc_none

theorem drawsFunc_drawAlignment (v r c : Nat) : drawsFunc (drawAlignment v r c) := by
  intro cell h
  obtain ⟨p, q, -, -, -, rfl⟩ := drawAlignment_eq_some_iff.1 h
  rfl

theorem drawsFunc_drawTiming (w r c : Nat) : drawsFunc (drawTiming w r c) := by
  unfold drawTiming; split_ifs
  · exact drawsFunc_some _
  · exact drawsFunc_some _
  · exact drawsFunc_none

theorem drawsFunc_drawSeparators (w r c : Nat) : drawsFunc (drawSeparators w r c) := by
  unfold drawSeparators; split
  · exact drawsFunc_some _
  · exact drawsFunc_none

theorem drawsFunc_finderAt (r0 c0 r c : Nat) : drawsFunc (finderAt r0 c0 r c) := by
  unfold finderAt; split
  · exact drawsFunc_some _
  · exact drawsFunc_none

theorem drawsFunc_drawFinders (w r c : Nat) : drawsFunc (drawFinders w r c) :=
  drawsFunc_or (drawsFunc_finderAt _ _ _ _) (drawsFunc_or (drawsFunc_finderAt _ _ _ _) (drawsFunc_finderAt _ _ _ _))

/-! What stands at a cell of a fresh frame, area by area (R279). -/

section
variable {v r c : Nat}

/-- What no drawing step touches: the cells outside the corners, row 6, column 6, the version areas and the alignment
patterns. -/
def freeArea (v r c : Nat) : Prop :=
  r ≠ 6 ∧ c ≠ 6 ∧ ¬ cornerArea (symbolWidth v) r c ∧ ¬ (7 ≤ v ∧ versionArea (symbolWidth v) r c) ∧
    drawAlignment v r c = none

theorem drawnCell_of_lt (hr : r < symbolWidth v) (hc : c < symbolWidth v) : drawnCell v r c =
    ((drawDark (symbolWidth v) r c).or ((drawVersion v r c).or ((drawAlignment v r c).or
      ((drawTiming (symbolWidth v) r c).or ((drawFormatReserve (symbolWidth v) r c).or
        ((drawSeparators (symbolWidth v) r c).or (drawFinders (symbolWidth v) r c))))))).getD emptyCell :=
  if_pos ⟨hr, hc⟩

theorem drawnCell_outside (h : symbolWidth v ≤ r ∨ symbolWidth v ≤ c) : drawnCell v r c = emptyCell :=
  if_neg (by omega)

/-- In the corners only the dark module, the timing patterns, the format reserve, the separators and the finders
are drawn. -/
theorem drawnCell_corner (hv : v ≤ 40) (hr : r < symbolWidth v) (hc : c < symbolWidth v)
    (h : cornerArea (symbolWidth v) r c) : drawnCell v r c =
      ((drawDark (symbolWidth v) r c).or ((drawTiming (symbolWidth v) r c).or
        ((drawFormatReserve (symbolWidth v) r c).or ((drawSeparators (symbolWidth v) r c).or
          (drawFinders (symbolWidth v) r c))))).getD emptyCell := by
  have hw : symbolWidth v = 17 + 4 * v := rfl
  have hversion : drawVersion v r c = none := by
    rw [drawVersion_eq_none_iff]
    unfold cornerArea at h
    unfold versionArea
    omega
  rw [drawnCell_of_lt hr hc, hversion, drawAlignment_corner hv h, Option.none_or, Option.none_or]

/-- A format-information cell is RSVD 0 (R273). -/
theorem drawnCell_format (h1 : 1 ≤ v) (hv : v ≤ 40) (hr : r < symbolWidth v) (hc : c < symbolWidth v)
    (h : formatArea (symbolWidth v) r c) : drawnCell v r c = rsvd false := by
  have hw : symbolWidth v = 17 + 4 * v := rfl
  unfold formatArea at h
  rw [drawnCell_corner hv hr hc (by unfold cornerArea; omega), (drawDark_eq_none_iff ..).2 (by omega),
    (drawTiming_eq_none_iff ..).2 (by omega), Option.none_or, Option.none_or]
  have hformat : drawFormatReserve (symbolWidth v) r c = some (rsvd false) := if_pos (by omega)
  rw [hformat]
  rfl

/-- From version 7 on a cell of a version area is RSVD and holds the version word's bit (R278). -/
theorem drawnCell_version (h7 : 7 ≤ v) {i j : Nat} (hi : i ≤ 5) (hj : j ≤ 2) :
    drawnCell v i (symbolWidth v - 11 + j) = rsvd ((versionWord v).getLsbD (3 * i + j)) ∧
      drawnCell v (symbolWidth v - 11 + j) i = rsvd ((versionWord v).getLsbD (3 * i + j)) := by
  have hw : symbolWidth v = 17 + 4 * v := rfl
  have hupper : drawVersion v i (symbolWidth v - 11 + j) = some (rsvd ((versionWord v).getLsbD (3 * i + j))) := by
    simp only [drawVersion, Nat.not_lt.2 h7, if_false]
    rw [if_pos (by omega), Nat.add_sub_cancel_left]
  have hlower : drawVersion v (symbolWidth v - 11 + j) i = some (rsvd ((versionWord v).getLsbD (3 * i + j))) := by
    simp only [drawVersion, Nat.not_lt.2 h7, if_false]
    rw [if_neg (by omega), if_pos (by omega), Nat.add_sub_cancel_left]
  constructor
  · rw [drawnCell_of_lt (by omega) (by omega), (drawDark_eq_none_iff ..).2 (by omega), hupper]
    rfl
  · rw [drawnCell_of_lt (by omega) (by omega), (drawDark_eq_none_iff ..).2 (by omega), hlower]
    rfl

theorem drawnCell_versionArea_kind (h7 : 7 ≤ v) (h : versionArea (symbolWidth v) r c) :
    (drawnCell v r c).kind = .rsvd := by
  obtain ⟨hr, hlow, hhigh⟩ | ⟨hc, hlow, hhigh⟩ := h
  · obtain ⟨j, rfl⟩ := Nat.exists_eq_add_of_le (show symbolWidth v - 11 ≤ c by omega)
    rw [(drawnCell_version h7 hr (by omega)).1]
    rfl
  · obtain ⟨j, rfl⟩ := Nat.exists_eq_add_of_le (show symbolWidth v - 11 ≤ r by omega)
    rw [(drawnCell_version h7 hc (by omega)).2]
    rfl

/-- Where no step draws the cell is EMPTY. -/
theorem drawnCell_free (hr : r < symbolWidth v) (hc : c < symbolWidth v) (h : freeArea v r c) :
    drawnCell v r c = emptyCell := by
  have hw : symbolWidth v = 17 + 4 * v := rfl
  obtain ⟨hr6, hc6, hcorner, hversion, halign⟩ := h
  unfold cornerArea at hcorner
  rw [drawnCell_of_lt hr hc, (drawDark_eq_none_iff ..).2 (by omega), (drawVersion_eq_none_iff ..).2 hversion, halign,
    (drawTiming_eq_none_iff ..).2 (by omega), (drawFormatReserve_eq_none_iff ..).2 (by omega),
    (drawSeparators_eq_none_iff ..).2 (by omega), (drawFinders_eq_none_iff ..).2 (by omega)]
  rfl

/-- All the other cells are FUNC. -/
theorem drawnCell_func (hr : r < symbolWidth v) (hc : c < symbolWidth v)
    (hformat : ¬ formatArea (symbolWidth v) r c) (hversion : ¬ (7 ≤ v ∧ versionArea (symbolWidth v) r c))
    (hfree : ¬ freeArea v r c) : (drawnCell v r c).kind = .func := by
  have hw : symbolWidth v = 17 + 4 * v := rfl
  rw [drawnCell_of_lt hr hc, (drawVersion_eq_none_iff ..).2 hversion, Option.none_or]
  cases hd : drawDark (symbolWidth v) r c with
  | some cell => exact drawsFunc_drawDark _ _ _ cell hd
  | none =>
  cases ha : drawAlignment v r c with
  | some cell => exact drawsFunc_drawAlignment _ _ _ cell ha
  | none =>
  cases ht : drawTiming (symbolWidth v) r c with
  | some cell => exact drawsFunc_drawTiming _ _ _ cell ht
  | none =>
  have hcorner : r = 6 ∨ c = 6 ∨ cornerArea (symbolWidth v) r c := by
    by_contra hnot
    obtain ⟨hr6, hc6, hnot⟩ := by simpa only [not_or] using hnot
    exact hfree ⟨hr6, hc6, hnot, hversion, ha⟩
  have hreserve : drawFormatReserve (symbolWidth v) r c = none := by
    rw [drawFormatReserve_eq_none_iff]
    rw [drawDark_eq_none_iff] at hd
    rw [drawTiming_eq_none_iff] at ht
    unfold formatArea at hformat
    clear hversion hfree ha hcorner
    grind
  rw [hreserve]
  cases hs : (drawSeparators (symbolWidth v) r c).or (drawFinders (symbolWidth v) r c) with
  | some cell => exact drawsFunc_or (drawsFunc_drawSeparators _ _ _) (drawsFunc_drawFinders _ _ _) cell hs
  | none => exact absurd hs (drawn_of_corner hr hc hcorner ht hreserve)

/-- Every cell of a fresh frame is RSVD in the reserved areas, EMPTY in the free area, and FUNC elsewhere. -/
theorem drawnCell_cases (h1 : 1 ≤ v) (hv : v ≤ 40) (hr : r < symbolWidth v) (hc : c < symbolWidth v) :
    ((formatArea (symbolWidth v) r c ∨ 7 ≤ v ∧ versionArea (symbolWidth v) r c) ∧ (drawnCell v r c).kind = .rsvd) ∨
      (freeArea v r c ∧ drawnCell v r c = emptyCell) ∨
      (drawnCell v r c).kind = .func := by
  by_cases hformat : formatArea (symbolWidth v) r c
  · exact .inl ⟨.inl hformat, by rw [drawnCell_format h1 hv hr hc hformat]; rfl⟩
  by_cases hversion : 7 ≤ v ∧ versionArea (symbolWidth v) r c
  · exact .inl ⟨.inr hversion, drawnCell_versionArea_kind hversion.1 hversion.2⟩
  by_cases hfree : freeArea v r c
  · exact .inr (.inl ⟨hfree, drawnCell_free hr hc hfree⟩)
  · exact .inr (.inr (drawnCell_func hr hc hformat hversion hfree))

theorem drawnCell_kind_empty_iff (h1 : 1 ≤ v) (hv : v ≤ 40) (hr : r < symbolWidth v) (hc : c < symbolWidth v) :
    (drawnCell v r c).kind = .empty ↔ freeArea v r c := by
  constructor
  · intro h
    obtain ⟨-, hkind⟩ | ⟨hfree, -⟩ | hkind := drawnCell_cases h1 hv hr hc
    · rw [hkind] at h; cases h
    · exact hfree
    · rw [hkind] at h; cases h
  · intro hfree
    rw [drawnCell_free hr hc hfree]
    rfl

theorem drawnCell_kind_rsvd_iff (h1 : 1 ≤ v) (hv : v ≤ 40) (hr : r < symbolWidth v) (hc : c < symbolWidth v) :
    (drawnCell v r c).kind = .rsvd ↔
      formatArea (symbolWidth v) r c ∨ 7 ≤ v ∧ versionArea (symbolWidth v) r c := by
  constructor
  · intro h
    obtain ⟨harea, -⟩ | ⟨-, hcell⟩ | hkind := drawnCell_cases h1 hv hr hc
    · exact harea
    · rw [hcell] at h; cases h
    · rw [hkind] at h; cases h
  · rintro (hformat | ⟨h7, hversion⟩)
    · rw [drawnCell_format h1 hv hr hc hformat]; rfl
    · exact drawnCell_versionArea_kind h7 hversion

/-- The cells of a fresh frame are FUNC, RSVD or (EMPTY, 0). -/
theorem drawnCell_kind (h1 : 1 ≤ v) (hv : v ≤ 40) : (drawnCell v r c).kind ≠ .data ∧
    ((drawnCell v r c).kind = .empty → (drawnCell v r c).bit = false) := by
  by_cases h : r < symbolWidth v ∧ c < symbolWidth v
  · obtain ⟨-, hkind⟩ | ⟨-, hcell⟩ | hkind := drawnCell_cases h1 hv h.1 h.2
    · simp [hkind]
    · simp [hcell, emptyCell]
    · simp [hkind]
  · simp [drawnCell_outside (v := v) (r := r) (c := c) (by omega), emptyCell]

/-- FRMINIT leaves the cell it draws (R281). -/
theorem frminitDraws_of_drawnCell {cell : Cell} (h1 : 1 ≤ v) (hv : v ≤ 40) (hr : r < symbolWidth v)
    (hc : c < symbolWidth v) (h : drawnCell v r c = cell) : frminitDraws v r c cell := by
  rintro s rfl
  have hlegal := (legalVersion_iff _).2 ⟨h1, hv⟩
  have hw := symbolWidth_le hlegal
  refine ⟨_, (execFrminit_next s _).2 (.inr ⟨hlegal, _, (frminitBody_next s _).2 rfl, rfl⟩), ?_⟩
  exact (Memory.read_ofGrid_cell _ r c (hr.trans_le hw) (hc.trans_le hw)).trans (congrArg some h)

end

theorem absDiff_add_left (a b c : Nat) : absDiff (a + b) (a + c) = absDiff b c := by
  unfold absDiff; omega

theorem func_bne (n k : Nat) : func (n != k) = ⟨.func, decide (n ≠ k)⟩ := by
  simp [func, bne, beq_eq_decide]

/-! The patterns in the corners (R271, R272). -/

theorem finderAt_inside {r0 c0 i j : Nat} (hi : i ≤ 6) (hj : j ≤ 6) :
    finderAt r0 c0 (r0 + i) (c0 + j) = some ⟨.func, decide (max (absDiff i 3) (absDiff j 3) ≠ 2)⟩ := by
  rw [finderAt, if_pos (by omega), absDiff_add_left, absDiff_add_left, func_bne]

section
variable {v : Nat}

theorem drawnCell_finder (h1 : 1 ≤ v) (hv : v ≤ 40) {r0 c0 i j : Nat} (hi : i ≤ 6) (hj : j ≤ 6)
    (hp : (r0, c0) ∈ [(0, 0), (0, symbolWidth v - 7), (symbolWidth v - 7, 0)]) :
    drawnCell v (r0 + i) (c0 + j) = ⟨.func, decide (max (absDiff i 3) (absDiff j 3) ≠ 2)⟩ := by
  have hw : symbolWidth v = 17 + 4 * v := rfl
  simp only [List.mem_cons, List.not_mem_nil, or_false, Prod.mk.injEq] at hp
  rw [drawnCell_corner hv (by omega) (by omega) (by unfold cornerArea; omega), (drawDark_eq_none_iff ..).2 (by omega),
    (drawTiming_eq_none_iff ..).2 (by omega), (drawFormatReserve_eq_none_iff ..).2 (by omega),
    (drawSeparators_eq_none_iff ..).2 (by omega), Option.none_or, Option.none_or, Option.none_or, Option.none_or,
    drawFinders]
  obtain ⟨rfl, rfl⟩ | ⟨rfl, rfl⟩ | ⟨rfl, rfl⟩ := hp
  · rw [finderAt_inside hi hj]
    rfl
  · rw [finderAt_inside hi hj, finderAt, if_neg (by omega)]
    rfl
  · rw [finderAt_inside hi hj, finderAt, if_neg (by omega), finderAt, if_neg (by omega)]
    rfl

theorem drawnCell_separator (h1 : 1 ≤ v) (hv : v ≤ 40) {r c : Nat} (hr : r < symbolWidth v) (hc : c < symbolWidth v)
    (h : (r = 7 ∧ c ≤ 7) ∨ (c = 7 ∧ r ≤ 7) ∨ (r = 7 ∧ symbolWidth v - 8 ≤ c) ∨ (c = symbolWidth v - 8 ∧ r ≤ 7) ∨
      (r = symbolWidth v - 8 ∧ c ≤ 7) ∨ (c = 7 ∧ symbolWidth v - 8 ≤ r)) :
    drawnCell v r c = ⟨.func, false⟩ := by
  have hw : symbolWidth v = 17 + 4 * v := rfl
  rw [drawnCell_corner hv hr hc (by unfold cornerArea; omega), (drawDark_eq_none_iff ..).2 (by omega),
    (drawTiming_eq_none_iff ..).2 (by omega), (drawFormatReserve_eq_none_iff ..).2 (by omega), drawSeparators, if_pos h]
  rfl

/-- Settles O41: the finders and separators lie in the corners, where no later step draws over them. -/
theorem findersAndSeparatorsAreDrawn : Obligations.FindersAndSeparatorsAreDrawn := by
  intro v h1 hv w
  have hw : w = 17 + 4 * v := rfl
  refine ⟨fun p hp i j hi hj => ?_, fun i hi => ?_⟩
  · have hlt : p.1 + 6 < w ∧ p.2 + 6 < w := by
      simp only [List.mem_cons, List.not_mem_nil, or_false, Prod.ext_iff] at hp
      omega
    exact frminitDraws_of_drawnCell h1 hv (by omega) (by omega) (drawnCell_finder h1 hv hi hj hp)
  · have hdraw : ∀ {r c : Nat}, _ → _ → _ → frminitDraws v r c ⟨.func, false⟩ := fun hr hc h =>
      frminitDraws_of_drawnCell h1 hv hr hc (drawnCell_separator h1 hv hr hc h)
    refine ⟨?_, ?_, ?_, ?_, ?_, ?_⟩ <;> exact hdraw (by omega) (by omega) (by omega)

/-! The timing patterns and the dark module (R274, R277). -/

/-- An alignment pattern that crosses the timing row has the same modules there: its centre column is even. -/
theorem drawAlignment_timing (hv : v ≤ 40) {k : Nat} {cell : Cell} (h : drawAlignment v 6 k = some cell) :
    cell = func (k % 2 == 0) := by
  have hw : symbolWidth v = 17 + 4 * v := rfl
  obtain ⟨p, q, hp, hq, -, rfl⟩ := drawAlignment_eq_some_iff.1 h
  rw [centreNear_eq_some_iff hv] at hp hq
  have hp6 := alignCentres_cases v hv _ hp.1
  have hq' := alignCentres_cases v hv _ hq.1
  obtain rfl : p = 6 := by omega
  rw [show (max (absDiff 6 6) (absDiff k q) != 1) = (k % 2 == 0) from ?_]
  rw [Bool.eq_iff_iff, bne_iff_ne, beq_iff_eq]
  unfold absDiff
  omega

theorem drawnCell_timing (h1 : 1 ≤ v) (hv : v ≤ 40) {k : Nat} (hk8 : 8 ≤ k) (hk : k ≤ symbolWidth v - 9) :
    drawnCell v 6 k = ⟨.func, decide (k % 2 = 0)⟩ ∧ drawnCell v k 6 = ⟨.func, decide (k % 2 = 0)⟩ := by
  have hw : symbolWidth v = 17 + 4 * v := rfl
  have hversion : ¬ (7 ≤ v ∧ versionArea (symbolWidth v) 6 k) ∧ ¬ (7 ≤ v ∧ versionArea (symbolWidth v) k 6) := by
    unfold versionArea; omega
  have hrow : drawTiming (symbolWidth v) 6 k = some (func (k % 2 == 0)) := if_pos (by omega)
  have hcolumn : drawTiming (symbolWidth v) k 6 = some (func (k % 2 == 0)) := by
    rw [drawTiming, if_neg (by omega), if_pos (by omega)]
  rw [drawnCell_of_lt (by omega) (by omega), drawnCell_of_lt (by omega) (by omega), drawAlignment_comm v k 6, hrow,
    hcolumn, (drawDark_eq_none_iff ..).2 (by omega), (drawDark_eq_none_iff ..).2 (by omega),
    (drawVersion_eq_none_iff ..).2 hversion.1, (drawVersion_eq_none_iff ..).2 hversion.2]
  cases ha : drawAlignment v 6 k with
  | none => exact ⟨rfl, rfl⟩
  | some cell =>
    obtain rfl := drawAlignment_timing hv ha
    exact ⟨rfl, rfl⟩

/-- Settles O42: the timing patterns are drawn over by alignment patterns only, and those agree with them. -/
theorem timingAndDarkModuleAreDrawn : Obligations.TimingAndDarkModuleAreDrawn := by
  intro v h1 hv w
  have hw : w = 17 + 4 * v := rfl
  refine ⟨fun k hk8 hk => ?_, frminitDraws_of_drawnCell h1 hv (by omega) (by omega) ?_⟩
  · obtain ⟨hrow, hcolumn⟩ := drawnCell_timing h1 hv hk8 hk
    exact ⟨frminitDraws_of_drawnCell h1 hv (by omega) (by omega) hrow,
      frminitDraws_of_drawnCell h1 hv (by omega) (by omega) hcolumn⟩
  · have hdark : drawDark w (w - 8) 8 = some (func true) := if_pos ⟨rfl, rfl⟩
    rw [drawnCell_of_lt (by omega) (by omega), hdark]
    rfl

/-! The alignment patterns (R275, R276). -/

theorem drawnCell_alignment (hv : v ≤ 40) {p q i j : Nat} (hp : p ∈ alignCentres v) (hq : q ∈ alignCentres v)
    (hfree : ¬ overlapsFinder (symbolWidth v) p q = true) (hi : i ≤ 4) (hj : j ≤ 4) :
    p - 2 + i < symbolWidth v ∧ q - 2 + j < symbolWidth v ∧
      drawnCell v (p - 2 + i) (q - 2 + j) = ⟨.func, decide (max (absDiff i 2) (absDiff j 2) ≠ 1)⟩ := by
  have hw : symbolWidth v = 17 + 4 * v := rfl
  have hp' := alignCentres_cases v hv _ hp
  have hq' := alignCentres_cases v hv _ hq
  have hdraw : drawAlignment v (p - 2 + i) (q - 2 + j) =
      some (func (max (absDiff (p - 2 + i) p) (absDiff (q - 2 + j) q) != 1)) :=
    drawAlignment_eq_some_iff.2 ⟨p, q, (centreNear_eq_some_iff hv).2 ⟨hp, by omega⟩,
      (centreNear_eq_some_iff hv).2 ⟨hq, by omega⟩, hfree, rfl⟩
  rw [overlapsFinder_iff] at hfree
  have hi' : absDiff (p - 2 + i) p = absDiff i 2 := by unfold absDiff; omega
  have hj' : absDiff (q - 2 + j) q = absDiff j 2 := by unfold absDiff; omega
  refine ⟨by omega, by omega, ?_⟩
  rw [drawnCell_of_lt (by omega) (by omega), hdraw, (drawDark_eq_none_iff ..).2 (by omega),
    (drawVersion_eq_none_iff ..).2 (by unfold versionArea; omega), hi', hj', func_bne]
  rfl

/-- Settles O43: only the dark module and the version areas are drawn after the alignment patterns, and they lie
apart. -/
theorem alignmentPatternsAreDrawn : Obligations.AlignmentPatternsAreDrawn := by
  refine ⟨by decide, ?_⟩
  intro v h1 hv w p hp q hq h66 h6w hw6 i j hi hj
  have hfree : ¬ overlapsFinder w p q = true := by
    rw [overlapsFinder_iff]
    simp only [ne_eq, Prod.mk.injEq] at h66 h6w hw6
    omega
  obtain ⟨hr, hc, hcell⟩ := drawnCell_alignment hv hp hq hfree hi hj
  exact frminitDraws_of_drawnCell h1 hv hr hc hcell

/-! The format-information and version-information areas (R273, R278, R287). -/

/-- Below version 7 no alignment pattern reaches the version areas. -/
theorem drawAlignment_versionArea (hv : v < 7) {r c : Nat} (h : versionArea (symbolWidth v) r c) :
    drawAlignment v r c = none := by
  have hw : symbolWidth v = 17 + 4 * v := rfl
  refine Option.eq_none_iff_forall_ne_some.2 fun cell hcell => ?_
  obtain ⟨p, q, hp, hq, hfree, -⟩ := drawAlignment_eq_some_iff.1 hcell
  rw [centreNear_eq_some_iff (by omega)] at hp hq
  have hp' := alignCentres_cases v (by omega) _ hp.1
  have hq' := alignCentres_cases v (by omega) _ hq.1
  rw [overlapsFinder_iff] at hfree
  unfold versionArea at h
  omega

theorem formatArea_fmtPos1 {w k : Nat} (hw : 21 ≤ w) (hk : k ≤ 14) :
    (fmtPos1 k).1 < w ∧ (fmtPos1 k).2 < w ∧ formatArea w (fmtPos1 k).1 (fmtPos1 k).2 := by
  unfold formatArea fmtPos1
  split_ifs <;> dsimp only <;> omega

theorem formatArea_fmtPos2 {w k : Nat} (hw : 21 ≤ w) (hk : k ≤ 14) :
    (fmtPos2 w k).1 < w ∧ (fmtPos2 w k).2 < w ∧ formatArea w (fmtPos2 w k).1 (fmtPos2 w k).2 := by
  unfold formatArea fmtPos2
  split_ifs <;> dsimp only <;> omega

theorem drawnCell_versionArea (h1 : 1 ≤ v) (hv : v < 7) {r c : Nat} (h : versionArea (symbolWidth v) r c) :
    drawnCell v r c = emptyCell := by
  have hw : symbolWidth v = 17 + 4 * v := rfl
  have halign := drawAlignment_versionArea hv h
  unfold versionArea at h
  exact drawnCell_free (by omega) (by omega)
    ⟨by omega, by omega, by unfold cornerArea; omega, by omega, halign⟩

/-- Settles O44: the format cells are RSVD 0; the version areas hold VER(v) from version 7 on and are free below. -/
theorem formatAndVersionAreasAreReserved : Obligations.FormatAndVersionAreasAreReserved := by
  refine ⟨rfl, ?_⟩
  intro v h1 hv w
  have hw : w = 17 + 4 * v := rfl
  have hformat : ∀ {r c}, r < w ∧ c < w ∧ formatArea w r c → frminitDraws v r c ⟨.rsvd, false⟩ := fun h =>
    frminitDraws_of_drawnCell h1 hv h.1 h.2.1 (drawnCell_format h1 hv h.1 h.2.1 h.2.2)
  have hfree : v < 7 → ∀ {r c}, versionArea w r c → frminitDraws v r c ⟨.empty, false⟩ := fun h7 _ _ h =>
    frminitDraws_of_drawnCell h1 hv (by unfold versionArea at h; omega) (by unfold versionArea at h; omega)
      (drawnCell_versionArea h1 h7 h)
  refine ⟨?_, fun k hk => ⟨hformat (formatArea_fmtPos1 (by omega) hk), hformat (formatArea_fmtPos2 (by omega) hk)⟩,
    fun h7 k hk => ?_, fun h7 k hk => ⟨hfree h7 (.inl ?_), hfree h7 (.inr ?_)⟩⟩
  · simp [List.range_succ, fmtPos2]
    omega
  · obtain ⟨hupper, hlower⟩ := drawnCell_version h7 (i := k / 3) (j := k % 3) (by omega) (by omega)
    rw [Nat.div_add_mod] at hupper hlower
    exact ⟨frminitDraws_of_drawnCell h1 hv (by omega) (by omega) hupper,
      frminitDraws_of_drawnCell h1 hv (by omega) (by omega) hlower⟩
  · omega
  · omega

end

/-- Settles O49: the 441 cells of R280's lines, evaluated. -/
theorem versionOneFrameIsAsPrinted : Obligations.VersionOneFrameIsAsPrinted := by
  unfold Obligations.VersionOneFrameIsAsPrinted
  intro printed r c hr hc
  refine frminitDraws_of_drawnCell (by decide) (by decide) hr hc ?_
  have hcells : ∀ r < 21, ∀ c < 21, drawnCell 1 r c = printedCell ((printed.getD r "").toList.getD c '?') := by
    decide +kernel
  exact hcells r hr c hc

/-! FRMINIT as a whole (R281). -/

/-- Two states that differ in FRAME only agree on a byte that FRAME reads alike or does not hold (R101). -/
theorem byteAt_congr_frame {s t : State} {a : Nat} (hother : ∀ u, u ≠ .frame → windowByte t u = windowByte s u)
    (hframe : 0x10000 ≤ a → a < 0x1B100 → t.frame.read (a - 0x10000) = s.frame.read (a - 0x10000)) :
    t.byteAt a = s.byteAt a := by
  have hrow : ∀ row ∈ memoryMap, row.target = .frame → row.base = 0x10000 ∧ row.size = 45312 := by decide
  refine byteAt_congr fun row hmem hlow hhigh => ?_
  by_cases ht : row.target = .frame
  · obtain ⟨hbase, hsize⟩ := hrow row hmem ht
    rw [hbase] at hlow hhigh ⊢
    simp only [ht, windowByte, hframe hlow (by omega)]
  · rw [hother _ ht]

/-- Settles O40: FRMINIT replaces the whole frame by the drawn one. -/
theorem frminitWritesTheWholeFrame : Obligations.FrminitWritesTheWholeFrame := by
  intro s h1 h40
  have hlegal := (legalVersion_iff _).2 ⟨h1, h40⟩
  refine ⟨_, (execFrminit_next s _).2 (.inr ⟨hlegal, _, (frminitBody_next s _).2 rfl, rfl⟩), rfl,
    fun r c hr hc => ⟨drawnCell s.version r c, Memory.read_ofGrid_cell _ r c hr hc, (drawnCell_kind h1 h40).1,
      (drawnCell_kind h1 h40).2, drawnCell_outside⟩, fun a ha => byteAt_congr_frame (fun u hu => ?_) (by omega)⟩
  cases u with
  | frame => exact absurd rfl hu
  | _ => rfl

end Sys2Proof.Machine
end

section
/-! PROOFS. The zig-zag traversal and PLACE (O46 to O48). -/

namespace Sys2Proof.Machine

/-! The traversal (R283). -/

/-- From an even column, or from an odd one left of the timing column, the right columns of the pairs stay even down to
8 and odd from 5 on. -/
theorem rightColumns_parity (fuel right : Nat) (hr : (right % 2 = 0 ∧ 6 ≤ right) ∨ (right % 2 = 1 ∧ right ≤ 5)) :
    ∀ x ∈ rightColumns fuel right, (x % 2 = 0 ∧ 8 ≤ x) ∨ (x % 2 = 1 ∧ x ≤ 5) := by
  induction fuel generalizing right with
  | zero => simp [rightColumns]
  | succ fuel ih =>
    rw [rightColumns, if_neg (by omega)]
    refine List.forall_mem_cons.2 ⟨?_, fun x hx => ?_⟩
    · split_ifs <;> omega
    · by_cases hlast : (if right = 6 then 5 else right) - 2 < 1
      · have := rightColumns_lt _ _ x hx
        omega
      · refine ih _ ?_ x hx
        split_ifs at hlast ⊢ <;> omega

/-- The pairs go from right to left. -/
theorem rightColumns_pairwise (fuel right : Nat) : (rightColumns fuel right).Pairwise (· > ·) := by
  induction fuel generalizing right with
  | zero => exact List.Pairwise.nil
  | succ fuel ih =>
    rw [rightColumns]
    split
    · exact List.Pairwise.nil
    · refine List.pairwise_cons.2 ⟨fun x hx => ?_, ih _⟩
      have := rightColumns_lt _ _ x hx
      omega

/-- Both columns of a pair have its right column. -/
theorem pairColumn_of_mem {x right : Nat} (hr : (right % 2 = 0 ∧ 8 ≤ right) ∨ (right % 2 = 1 ∧ right ≤ 5))
    (hx : x = right ∨ x + 1 = right) : pairColumn x = right := by
  unfold pairColumn
  split_ifs <;> omega

theorem mem_pairCells_iff {w right : Nat} {p : Nat × Nat} (hr : 1 ≤ right) :
    p ∈ pairCells w right ↔ p.1 < w ∧ (p.2 = right ∨ p.2 + 1 = right) := by
  constructor
  · intro h
    simp only [pairCells, List.mem_flatMap, List.mem_range, List.mem_cons, List.not_mem_nil, or_false] at h
    obtain ⟨vert, hvert, rfl | rfl⟩ := h <;> split_ifs <;> simp <;> omega
  · intro ⟨hy, hx⟩
    exact mem_pairCells hy hx

/-- The cells of a pair are in traversal order. -/
theorem pairCells_pairwise {w right : Nat} (hr : (right % 2 = 0 ∧ 8 ≤ right) ∨ (right % 2 = 1 ∧ right ≤ 5)) :
    (pairCells w right).Pairwise visitedBefore := by
  have hright := pairColumn_of_mem hr (.inl rfl)
  have hleft := pairColumn_of_mem (x := right - 1) hr (.inr (by omega))
  refine List.pairwise_flatMap.2 ⟨fun vert _ => ?_, List.pairwise_lt_range.imp_of_mem fun ha hb hab p hp q hq => ?_⟩
  · rw [List.pairwise_pair]
    exact .inr ⟨hright.trans hleft.symm, .inr ⟨rfl, show right - 1 < right by omega⟩⟩
  · rw [List.mem_range] at ha hb
    simp only [List.mem_cons, List.not_mem_nil, or_false] at hp hq
    have hp2 : pairColumn p.2 = right := by obtain rfl | rfl := hp <;> assumption
    have hq2 : pairColumn q.2 = right := by obtain rfl | rfl := hq <;> assumption
    refine .inr ⟨hp2.trans hq2.symm, .inl ?_⟩
    rw [hp2]
    obtain rfl | rfl := hp <;> obtain rfl | rfl := hq <;> dsimp only <;> split_ifs <;> omega

/-- The traversal visits the EMPTY cells of the frame outside the timing column. -/
theorem mem_order_iff {v : Nat} (rows : List (List Cell)) (h1 : 1 ≤ v) (y x : Nat) :
    (y, x) ∈ order (symbolWidth v) rows ↔
      y < symbolWidth v ∧ x < symbolWidth v ∧ x ≠ 6 ∧ (cellAt rows y x).kind = .empty := by
  have hw : symbolWidth v = 17 + 4 * v := rfl
  simp only [order, List.mem_flatMap, List.mem_filter, beq_iff_eq]
  constructor
  · rintro ⟨right, hright, hp, hkind⟩
    have hparity := rightColumns_parity _ _ (.inl (by omega)) right hright
    obtain ⟨hlow, hhigh⟩ := rightColumns_lt _ _ right hright
    obtain ⟨hy, hx⟩ := (mem_pairCells_iff hlow).1 hp
    exact ⟨hy, by omega, by omega, hkind⟩
  · rintro ⟨hy, hx, h6, hkind⟩
    obtain ⟨right, hright, hcol⟩ := exists_rightColumn (symbolWidth v) (symbolWidth v - 1) x (by omega) (by omega)
      (.inl (by omega))
    exact ⟨right, hright, mem_pairCells hy hcol, hkind⟩

theorem order_pairwise {v : Nat} (rows : List (List Cell)) (h1 : 1 ≤ v) :
    (order (symbolWidth v) rows).Pairwise visitedBefore := by
  have hw : symbolWidth v = 17 + 4 * v := rfl
  have hparity := rightColumns_parity (symbolWidth v) (symbolWidth v - 1) (.inl (by omega))
  have hcolumn : ∀ {p : Nat × Nat} {right}, right ∈ rightColumns (symbolWidth v) (symbolWidth v - 1) →
      p ∈ (pairCells (symbolWidth v) right).filter (fun p => (cellAt rows p.1 p.2).kind == .empty) →
      pairColumn p.2 = right := fun hright hp =>
    pairColumn_of_mem (hparity _ hright)
      ((mem_pairCells_iff (rightColumns_lt _ _ _ hright).1).1 (List.mem_of_mem_filter hp)).2
  refine List.pairwise_flatMap.2 ⟨fun right hright => (pairCells_pairwise (hparity right hright)).filter _,
    (rightColumns_pairwise ..).imp_of_mem fun ha hb hab p hp q hq => .inl ?_⟩
  rwa [hcolumn ha hp, hcolumn hb hq]

/-- Settles O46: the pairs go from right to left, and inside a pair the rows and then the columns are in order. -/
theorem traversalIsTheZigZag : Obligations.TraversalIsTheZigZag :=
  fun _ rows h1 _ => ⟨order_pairwise rows h1, mem_order_iff rows h1⟩

theorem not_visitedBefore_self (p : Nat × Nat) : ¬ visitedBefore p p := by
  unfold visitedBefore
  split_ifs <;> omega

/-- No cell is visited twice. -/
theorem order_nodup {v : Nat} (rows : List (List Cell)) (h1 : 1 ≤ v) : (order (symbolWidth v) rows).Nodup :=
  (order_pairwise rows h1).imp (S := (· ≠ ·)) fun h heq => not_visitedBefore_self _ (heq ▸ h)

/-! The placed bits (R284). -/

theorem getElem?_flatMap_msbFirst (q : List Byte) {j k : Nat} (hk : k < 8) :
    (q.flatMap msbFirst)[8 * j + k]? = q[j]?.map fun b => b.getLsbD (7 - k) := by
  induction q generalizing j with
  | nil => rfl
  | cons b q ih =>
    rw [List.flatMap_cons]
    cases j with
    | zero =>
      rw [List.getElem?_append_left (by simpa [msbFirst] using hk)]
      simp [msbFirst, hk]
    | succ j =>
      rw [List.getElem?_append_right (by simp [msbFirst]; omega), List.getElem?_cons_succ, ← ih]
      congr 1
      simp [msbFirst]
      omega

theorem length_flatMap_msbFirst (q : List Byte) : (q.flatMap msbFirst).length = 8 * q.length := by
  simp [msbFirst, List.length_flatMap, Nat.mul_comm]

theorem length_placedBits (v : Nat) (q : List Byte) : (placedBits v q).length = 8 * q.length + remainderBits v := by
  rw [placedBits, List.length_append, length_flatMap_msbFirst, List.length_replicate]

/-- Settles O47: every codeword gives eight bits, so bit 8j + k lies in codeword j. -/
theorem placedBitsAreMsbFirst : Obligations.PlacedBitsAreMsbFirst := by
  refine fun v q => ⟨length_placedBits v q, fun j k b hk hb => ?_, fun n hn => ?_⟩
  · have hj := (List.getElem?_eq_some_iff.1 hb).1
    rw [placedBits, List.getElem?_append_left (by rw [length_flatMap_msbFirst]; omega),
      getElem?_flatMap_msbFirst q hk, hb, Option.map_some]
  · rw [placedBits, List.getElem?_append_right (by rw [length_flatMap_msbFirst]; omega), length_flatMap_msbFirst,
      Nat.add_sub_cancel_left, List.getElem?_replicate, if_pos hn]

/-! PLACE (R285). -/

/-- With no cell twice, PLACE's n-th write is what the n-th cell reads as. -/
theorem read_placed_nth {m : Memory Cell} (hm : m.wf = true) {cells : List (Nat × Nat)} {bits : List Bool}
    (hl : cells.length = bits.length) (hnodup : cells.Nodup) (hcolumn : ∀ p ∈ cells, p.2 < 256) {n : Nat}
    {p : Nat × Nat} (hp : cells[n]? = some p) : (m.writeAll (placements cells bits)).read (256 * p.1 + p.2) =
      bits[n]?.map fun b => ⟨.data, b⟩ := by
  obtain ⟨hn, rfl⟩ := List.getElem?_eq_some_iff.1 hp
  obtain ⟨e, he, hidx⟩ := exists_mem_placements hl (List.getElem_mem hn)
  obtain ⟨cell, hread, hcell⟩ := Memory.exists_read_of_mem (List.mem_reverse.2 he)
  obtain ⟨i, hi, hentry⟩ := List.mem_iff_getElem.1 (List.mem_reverse.1 hcell)
  have hlen : i < cells.length ∧ i < bits.length := by simpa [placements] using hi
  simp only [placements, List.getElem_zipWith, Prod.mk.injEq] at hentry
  obtain ⟨hkey, rfl⟩ := hentry
  have hsame : cells[i] = cells[n] := by
    have hci := hcolumn _ (List.getElem_mem hlen.1)
    have hcn := hcolumn _ (List.getElem_mem hn)
    exact Prod.ext (by omega) (by omega)
  obtain rfl := (hnodup.getElem_inj_iff).1 hsame
  rw [Memory.read_writeAll m hm, ← hidx, hread, List.getElem?_eq_getElem hlen.2]
  rfl

/-- Settles O48: PLACE's checks pass, and no cell is visited twice, so each keeps the bit written there. -/
theorem placeWritesTheBitsInOrder : Obligations.PlaceWritesTheBitsInOrder := by
  intro s F q hwf hseqv hfrmv hplcd hver h1 h40 hF hq hread cells hcount
  obtain ⟨-, wq, -, wf, -⟩ := (memoryWf_iff s).1 hwf
  have hw := symbolWidth_le ((legalVersion_iff _).2 ⟨h1, h40⟩)
  have hready : s.cannotPlace = false := by simp [State.cannotPlace, hseqv, hfrmv, hplcd, hver]
  have hseq : readSequence s (totalCodewords s.frameVersion) = some q :=
    (Memory.readRun_eq_some_iff _ wq _ _ _).2 ⟨hq, fun i hi => by rw [Nat.zero_add]; exact hread i (hq ▸ hi)⟩
  have hlen : cells.length = (placedBits s.frameVersion q).length := by rw [hcount, length_placedBits, hq]
  have hcolumn : ∀ p ∈ cells, p.2 < 256 := fun p hp =>
    (((mem_order_iff _ h1 p.1 p.2).1 hp).2.1.trans_le hw).trans (by decide)
  refine ⟨_, (execPlace_next s _).2 (.inr ⟨hready, _, (placeBody_next s _).2
    ⟨_, q, readFrame_of_frameIs s F wf hF, hseq, hlen, rfl⟩, rfl⟩), rfl,
    fun n y x hn => read_placed_nth wf hlen (order_nodup _ h1) hcolumn hn, fun k hk => read_not_placed wf hk,
    fun a ha => byteAt_congr_frame (fun u hu => ?_) fun hlow _ => read_not_placed wf fun p hp => ?_⟩
  · cases u with
    | frame => exact absurd rfl hu
    | _ => rfl
  · have := ha p hp
    omega

end Sys2Proof.Machine
end

section
/-! PROOFS. How many cells of a fresh frame are EMPTY and RSVD (O45), and with it that PLACE's count check never
fails (O24). The cells are counted as unions and differences of rectangles, a rectangle being the product of a set of
rows and a set of columns. -/

namespace Sys2Proof.Machine

open Finset

/-- The cells of a kind in a fresh frame. -/
def drawnCells (v : Nat) (k : Kind) : Finset (Nat × Nat) :=
  (range (symbolWidth v) ×ˢ range (symbolWidth v)).filter fun p => (drawnCell v p.1 p.2).kind = k

theorem mem_drawnCells {v : Nat} {k : Kind} {p : Nat × Nat} :
    p ∈ drawnCells v k ↔ p.1 < symbolWidth v ∧ p.2 < symbolWidth v ∧ (drawnCell v p.1 p.2).kind = k := by
  simp [drawnCells, and_assoc]

/-! The coordinates of the areas. -/

/-- The coordinates of the upper and the left side, without the timing patterns'. -/
def sideCoords : Finset Nat := (range 9).erase 6

/-- The coordinates between the corners. -/
def betweenCoords (v : Nat) : Finset Nat := Icc 9 (symbolWidth v - 9)

/-- The coordinates of the version areas' three lines, from version 7 on. -/
def versionCoords (v : Nat) : Finset Nat := if 7 ≤ v then Icc (symbolWidth v - 11) (symbolWidth v - 9) else ∅

/-- The coordinates near a centre that is neither the first nor the last. -/
def middleCoords (v : Nat) : Finset Nat := (range (symbolWidth v)).filter fun x =>
  ∃ q ∈ alignCentres v, (q ≠ 6 ∧ q + 7 ≠ symbolWidth v) ∧ q ≤ x + 2 ∧ x ≤ q + 2

/-- The coordinates near a centre that is not the first. -/
def laterCoords (v : Nat) : Finset Nat := (Ico 9 (symbolWidth v)).filter fun x =>
  ∃ q ∈ alignCentres v, q ≤ x + 2 ∧ x ≤ q + 2

theorem card_versionCoords (v : Nat) : #(versionCoords v) = if 7 ≤ v then 3 else 0 := by
  have hw : symbolWidth v = 17 + 4 * v := rfl
  unfold versionCoords
  split
  · rw [Nat.card_Icc]
    omega
  · rfl

/-- Each centre has five coordinates near it. -/
theorem card_alignmentCoords : ∀ v ≤ 40, #(middleCoords v) = 5 * ((alignCentres v).length - 2) ∧
    #(laterCoords v) = 5 * ((alignCentres v).length - 1) := by decide +kernel

theorem six_mem_alignCentres : ∀ v ≤ 40, 2 ≤ v → 6 ∈ alignCentres v := by decide

section
variable {v r c : Nat}

theorem middleCoords_subset (hv : v ≤ 40) : middleCoords v ⊆ Icc 20 (symbolWidth v - 21) := by
  intro x hx
  obtain ⟨-, q, hq, hmid, hlow, hhigh⟩ := mem_filter.1 hx
  have := alignCentres_cases v hv _ hq
  rw [mem_Icc]
  omega

/-- In the upper rows the alignment patterns are those of the first row of centres, without the outer two. -/
theorem drawAlignment_upper (hv : v ≤ 40) (hr : r ≤ 8) (hc : c < symbolWidth v) :
    drawAlignment v r c = none ↔ ¬ (4 ≤ r ∧ c ∈ middleCoords v) := by
  have hw : symbolWidth v = 17 + 4 * v := rfl
  rw [← not_iff_not, not_not, ← ne_eq, Option.ne_none_iff_exists']
  simp only [drawAlignment_eq_some_iff, overlapsFinder_iff, centreNear_eq_some_iff hv, middleCoords, mem_filter,
    mem_range]
  constructor
  · rintro ⟨cell, p, q, ⟨hp, hpr⟩, ⟨hq, hqc⟩, hfree, -⟩
    have := alignCentres_cases v hv _ hp
    exact ⟨by omega, hc, q, hq, by omega, hqc⟩
  · rintro ⟨hr4, -, q, hq, hmid, hqc⟩
    have := alignCentres_cases v hv _ hq
    exact ⟨_, 6, q, ⟨six_mem_alignCentres v hv (by omega), by omega⟩, ⟨hq, hqc⟩, by omega, rfl⟩

/-- Below row 8 and right of column 8 every pair of later centres has its pattern. -/
theorem drawAlignment_lower (hv : v ≤ 40) (hr9 : 9 ≤ r) (hc9 : 9 ≤ c) (hr : r < symbolWidth v)
    (hc : c < symbolWidth v) : drawAlignment v r c = none ↔ ¬ (r ∈ laterCoords v ∧ c ∈ laterCoords v) := by
  have hw : symbolWidth v = 17 + 4 * v := rfl
  rw [← not_iff_not, not_not, ← ne_eq, Option.ne_none_iff_exists']
  simp only [drawAlignment_eq_some_iff, overlapsFinder_iff, centreNear_eq_some_iff hv, laterCoords, mem_filter, mem_Ico]
  constructor
  · rintro ⟨cell, p, q, ⟨hp, hpr⟩, ⟨hq, hqc⟩, -⟩
    exact ⟨⟨⟨hr9, hr⟩, p, hp, hpr⟩, ⟨hc9, hc⟩, q, hq, hqc⟩
  · rintro ⟨⟨-, p, hp, hpr⟩, -, q, hq, hqc⟩
    exact ⟨_, p, q, ⟨hp, hpr⟩, ⟨hq, hqc⟩, by omega, rfl⟩

/-! The EMPTY cells (R282). -/

/-- The EMPTY cells above row 9. -/
def upperFree (v : Nat) : Finset (Nat × Nat) :=
  (sideCoords ×ˢ betweenCoords v) \ (range 6 ×ˢ versionCoords v ∪ {4, 5, 7, 8} ×ˢ middleCoords v)

/-- The EMPTY cells below row 8 and right of column 8. -/
def lowerFree (v : Nat) : Finset (Nat × Nat) :=
  (Ico 9 (symbolWidth v) ×ˢ Ico 9 (symbolWidth v)) \ (laterCoords v ×ˢ laterCoords v)

theorem mem_versionCoords {x : Nat} :
    x ∈ versionCoords v ↔ 7 ≤ v ∧ symbolWidth v - 11 ≤ x ∧ x ≤ symbolWidth v - 9 := by
  unfold versionCoords
  split <;> simp [*]

theorem mem_upperFree (h1 : 1 ≤ v) (hv : v ≤ 40) :
    (r, c) ∈ upperFree v ↔ (r < symbolWidth v ∧ c < symbolWidth v ∧ freeArea v r c) ∧ r ≤ 8 := by
  have hw : symbolWidth v = 17 + 4 * v := rfl
  by_cases hr : r ≤ 8 ∧ c < symbolWidth v
  · rw [freeArea, drawAlignment_upper hv hr.1 hr.2]
    simp only [upperFree, sideCoords, betweenCoords, mem_sdiff, mem_product, mem_union, mem_erase, mem_range, mem_Icc,
      mem_insert, mem_singleton, mem_versionCoords, cornerArea, versionArea]
    by_cases hm : c ∈ middleCoords v
    · have hbound := mem_Icc.1 (middleCoords_subset hv hm)
      simp only [hm, and_true]
      omega
    · simp only [hm, and_false, or_false, not_false_eq_true, and_true]
      omega
  · simp only [upperFree, sideCoords, betweenCoords, mem_sdiff, mem_product, mem_erase, mem_range, mem_Icc]
    omega

theorem mem_lowerFree (hv : v ≤ 40) : (r, c) ∈ lowerFree v ↔
    (r < symbolWidth v ∧ c < symbolWidth v ∧ freeArea v r c) ∧ 9 ≤ r ∧ 9 ≤ c := by
  simp only [lowerFree, mem_sdiff, mem_product, mem_Ico]
  constructor
  · rintro ⟨⟨⟨hr9, hr⟩, hc9, hc⟩, hfree⟩
    refine ⟨⟨hr, hc, by omega, by omega, ?_, ?_, (drawAlignment_lower hv hr9 hc9 hr hc).2 hfree⟩, hr9, hc9⟩
    · unfold cornerArea; omega
    · unfold versionArea; omega
  · rintro ⟨⟨hr, hc, -, -, -, -, hfree⟩, hr9, hc9⟩
    exact ⟨⟨⟨hr9, hr⟩, hc9, hc⟩, (drawAlignment_lower hv hr9 hc9 hr hc).1 hfree⟩

theorem freeArea_comm : freeArea v r c ↔ freeArea v c r := by
  unfold freeArea cornerArea versionArea
  rw [drawAlignment_comm v r c]
  constructor <;> rintro ⟨hr, hc, hcorner, hversion, halign⟩ <;>
    exact ⟨hc, hr, by omega, by omega, halign⟩

/-- The EMPTY cells on the left side mirror those on the upper side. -/
def leftFree (v : Nat) : Finset (Nat × Nat) := (upperFree v).map (Equiv.prodComm Nat Nat).toEmbedding

theorem mem_leftFree (h1 : 1 ≤ v) (hv : v ≤ 40) :
    (r, c) ∈ leftFree v ↔ (r < symbolWidth v ∧ c < symbolWidth v ∧ freeArea v r c) ∧ c ≤ 8 := by
  rw [leftFree, mem_map_equiv, Equiv.prodComm_symm, Equiv.prodComm_apply, Prod.swap_prod_mk, mem_upperFree h1 hv,
    freeArea_comm]
  tauto

theorem drawnCells_empty_eq (h1 : 1 ≤ v) (hv : v ≤ 40) :
    drawnCells v .empty = upperFree v ∪ (leftFree v ∪ lowerFree v) := by
  ext ⟨r, c⟩
  rw [mem_union, mem_union, mem_upperFree h1 hv, mem_leftFree h1 hv, mem_lowerFree hv, mem_drawnCells]
  constructor
  · rintro ⟨hr, hc, hkind⟩
    have hfree := (drawnCell_kind_empty_iff h1 hv hr hc).1 hkind
    by_cases hr8 : r ≤ 8
    · exact .inl ⟨⟨hr, hc, hfree⟩, hr8⟩
    by_cases hc8 : c ≤ 8
    · exact .inr (.inl ⟨⟨hr, hc, hfree⟩, hc8⟩)
    · exact .inr (.inr ⟨⟨hr, hc, hfree⟩, by omega, by omega⟩)
  · rintro (⟨⟨hr, hc, hfree⟩, -⟩ | ⟨⟨hr, hc, hfree⟩, -⟩ | ⟨⟨hr, hc, hfree⟩, -⟩) <;>
      exact ⟨hr, hc, (drawnCell_kind_empty_iff h1 hv hr hc).2 hfree⟩

theorem card_upperFree (hv : v ≤ 40) : #(upperFree v) =
    8 * (symbolWidth v - 17) - (6 * #(versionCoords v) + 4 * #(middleCoords v)) := by
  have hw : symbolWidth v = 17 + 4 * v := rfl
  have hdisj : Disjoint (range 6 ×ˢ versionCoords v) ({4, 5, 7, 8} ×ˢ middleCoords v) := by
    refine disjoint_product.2 (.inr (disjoint_left.2 fun x hx hm => ?_))
    have := mem_versionCoords.1 hx
    have := mem_Icc.1 (middleCoords_subset hv hm)
    omega
  have hsub : range 6 ×ˢ versionCoords v ∪ {4, 5, 7, 8} ×ˢ middleCoords v ⊆ sideCoords ×ˢ betweenCoords v := by
    refine union_subset (product_subset_product (by decide) fun x hx => ?_)
      (product_subset_product (by decide) fun x hx => ?_)
    · have := mem_versionCoords.1 hx
      rw [betweenCoords, mem_Icc]
      omega
    · have := mem_Icc.1 (middleCoords_subset hv hx)
      rw [betweenCoords, mem_Icc]
      omega
  rw [upperFree, card_sdiff_of_subset hsub, card_union_of_disjoint hdisj, card_product, card_product, card_product,
    betweenCoords, Nat.card_Icc, card_range, show #sideCoords = 8 from rfl,
    show #({4, 5, 7, 8} : Finset Nat) = 4 from rfl, show symbolWidth v - 9 + 1 - 9 = symbolWidth v - 17 by omega]

theorem card_lowerFree (v : Nat) : #(lowerFree v) =
    (symbolWidth v - 9) * (symbolWidth v - 9) - #(laterCoords v) * #(laterCoords v) := by
  have hsub : laterCoords v ⊆ Ico 9 (symbolWidth v) := filter_subset _ _
  rw [lowerFree, card_sdiff_of_subset (product_subset_product hsub hsub), card_product, card_product, Nat.card_Ico]

/-- The EMPTY cells of version v: twice the side's, where the version area and the patterns of the middle centres are
left out, and the rest, where those of the later centres are. -/
def freeCount (v : Nat) : Nat :=
  2 * (8 * (symbolWidth v - 17) - (6 * (if 7 ≤ v then 3 else 0) + 4 * (5 * ((alignCentres v).length - 2)))) +
    ((symbolWidth v - 9) * (symbolWidth v - 9) -
      5 * ((alignCentres v).length - 1) * (5 * ((alignCentres v).length - 1)))

theorem freeCount_eq_bits : ∀ v ≤ 40, 1 ≤ v → freeCount v = 8 * totalCodewords v + remainderBits v := by decide

theorem card_drawnCells_empty (h1 : 1 ≤ v) (hv : v ≤ 40) :
    #(drawnCells v .empty) = 8 * totalCodewords v + remainderBits v := by
  obtain ⟨hmiddle, hlater⟩ := card_alignmentCoords v hv
  have hlower : Disjoint (leftFree v) (lowerFree v) := disjoint_left.2 fun ⟨r, c⟩ hl hlow => by
    rw [mem_leftFree h1 hv] at hl
    rw [mem_lowerFree hv] at hlow
    omega
  have hupper : Disjoint (upperFree v) (leftFree v ∪ lowerFree v) := disjoint_left.2 fun ⟨r, c⟩ hu hrest => by
    obtain ⟨⟨-, -, -, -, hcorner, -⟩, hr⟩ := (mem_upperFree h1 hv).1 hu
    rw [mem_union, mem_leftFree h1 hv, mem_lowerFree hv] at hrest
    unfold cornerArea at hcorner
    omega
  rw [drawnCells_empty_eq h1 hv, card_union_of_disjoint hupper, card_union_of_disjoint hlower, leftFree, card_map,
    card_upperFree hv, card_lowerFree, card_versionCoords, hmiddle, hlater, ← freeCount_eq_bits v hv h1, freeCount]
  omega

/-! The RSVD cells (R282). -/

/-- The columns of the format cells in row 8. -/
def formatRow (v : Nat) : Finset Nat := sideCoords ∪ Ico (symbolWidth v - 8) (symbolWidth v)

/-- The rows of the format cells in column 8, row 8 apart. -/
def formatColumn (v : Nat) : Finset Nat := (range 8).erase 6 ∪ Ico (symbolWidth v - 7) (symbolWidth v)

/-- The format cells in row 8, those in column 8 that are not in row 8, and the version areas. -/
theorem drawnCells_rsvd_eq (h1 : 1 ≤ v) (hv : v ≤ 40) : drawnCells v .rsvd =
    {8} ×ˢ formatRow v ∪ (formatColumn v ×ˢ {8} ∪ (range 6 ×ˢ versionCoords v ∪ versionCoords v ×ˢ range 6)) := by
  have hw : symbolWidth v = 17 + 4 * v := rfl
  ext ⟨r, c⟩
  have harea : (r, c) ∈ drawnCells v .rsvd ↔ r < symbolWidth v ∧ c < symbolWidth v ∧
      (formatArea (symbolWidth v) r c ∨ 7 ≤ v ∧ versionArea (symbolWidth v) r c) := by
    rw [mem_drawnCells]
    constructor
    · rintro ⟨hr, hc, hkind⟩
      exact ⟨hr, hc, (drawnCell_kind_rsvd_iff h1 hv hr hc).1 hkind⟩
    · rintro ⟨hr, hc, h⟩
      exact ⟨hr, hc, (drawnCell_kind_rsvd_iff h1 hv hr hc).2 h⟩
  simp only [harea, formatArea, versionArea, mem_union, mem_product, mem_singleton, mem_versionCoords, mem_range,
    mem_Ico, mem_erase, sideCoords, formatRow, formatColumn]
  omega

/-- A set of coordinates before the last n, and those n. -/
theorem card_union_Ico {s : Finset Nat} {w n : Nat} (hs : ∀ x ∈ s, x < w - n) (hn : n ≤ w) :
    #(s ∪ Ico (w - n) w) = #s + n := by
  have hdisj : Disjoint s (Ico (w - n) w) := disjoint_left.2 fun x hx hlast =>
    absurd (hs x hx) (Nat.not_lt.2 (mem_Ico.1 hlast).1)
  rw [card_union_of_disjoint hdisj, Nat.card_Ico, Nat.sub_sub_self hn]

theorem card_drawnCells_rsvd (h1 : 1 ≤ v) (hv : v ≤ 40) : #(drawnCells v .rsvd) = if v ≤ 6 then 30 else 66 := by
  have hw : symbolWidth v = 17 + 4 * v := rfl
  have h6 : Disjoint {8} (range 6) := by decide
  have hv8 : Disjoint {8} (versionCoords v) := disjoint_singleton_left.2 fun h => by
    rw [mem_versionCoords] at h
    omega
  have hv6 : Disjoint (range 6) (versionCoords v) := disjoint_left.2 fun x hx h => by
    rw [mem_versionCoords] at h
    rw [mem_range] at hx
    omega
  have hupper8 : Disjoint {8} (formatColumn v) := disjoint_singleton_left.2 fun h => by
    simp only [formatColumn, mem_union, mem_erase, mem_range, mem_Ico] at h
    omega
  have hareas : Disjoint (range 6 ×ˢ versionCoords v) (versionCoords v ×ˢ range 6) := disjoint_product.2 (.inl hv6)
  have hcolumn : Disjoint (formatColumn v ×ˢ {8}) (range 6 ×ˢ versionCoords v ∪ versionCoords v ×ˢ range 6) :=
    disjoint_union_right.2 ⟨disjoint_product.2 (.inr hv8), disjoint_product.2 (.inr h6)⟩
  have hrow : Disjoint ({8} ×ˢ formatRow v) (formatColumn v ×ˢ {8} ∪
      (range 6 ×ˢ versionCoords v ∪ versionCoords v ×ˢ range 6)) :=
    disjoint_union_right.2 ⟨disjoint_product.2 (.inl hupper8),
      disjoint_union_right.2 ⟨disjoint_product.2 (.inl h6), disjoint_product.2 (.inl hv8)⟩⟩
  have hside : #(formatRow v) = 8 + 8 :=
    card_union_Ico (fun x hx => by simp only [sideCoords, mem_erase, mem_range] at hx; omega) (by omega)
  have hupper : #(formatColumn v) = 7 + 7 :=
    card_union_Ico (fun x hx => by simp only [mem_erase, mem_range] at hx; omega) (by omega)
  rw [drawnCells_rsvd_eq h1 hv, card_union_of_disjoint hrow, card_union_of_disjoint hcolumn,
    card_union_of_disjoint hareas, card_product, card_product, card_product, card_product, hside, hupper,
    card_singleton, card_range, card_versionCoords]
  split_ifs <;> omega

end

/-! Counting in a grid by rows. -/

theorem count_gridRows {α : Type} [BEq α] [LawfulBEq α] [DecidableEq α] (w : Nat) (F : Nat → Nat → α) (x : α) :
    (gridRows w F).flatten.count x = #((range w ×ˢ range w).filter fun p => F p.1 p.2 = x) := by
  have hrow : ∀ r, ((List.range w).map fun c => F r c).count x = #((range w).filter fun c => F r c = x) := fun r => by
    rw [List.count_eq_countP, List.countP_map, List.countP_eq_length_filter]
    exact congrArg List.length (List.filter_congr fun c _ => by simp [beq_eq_decide])
  simp only [List.count_flatten, gridRows, List.map_map, card_filter, sum_product]
  refine (sum_congr rfl fun r _ => ?_ : ∑ r ∈ range w, ((List.range w).map fun c => F r c).count x = _)
  rw [hrow, card_filter]

/-- A fresh frame has no DATA cell. -/
theorem card_drawnCells_add {v : Nat} (h1 : 1 ≤ v) (hv : v ≤ 40) :
    #(drawnCells v .func) + #(drawnCells v .rsvd) + #(drawnCells v .empty) = symbolWidth v * symbolWidth v := by
  simp only [drawnCells, card_filter, ← sum_add_distrib]
  have hone : ∀ p ∈ range (symbolWidth v) ×ˢ range (symbolWidth v),
      ((if (drawnCell v p.1 p.2).kind = .func then 1 else 0) + (if (drawnCell v p.1 p.2).kind = .rsvd then 1 else 0) +
        if (drawnCell v p.1 p.2).kind = .empty then 1 else 0) = 1 := fun p _ => by
    have hdata := (drawnCell_kind (r := p.1) (c := p.2) h1 hv).1
    cases hk : (drawnCell v p.1 p.2).kind <;> simp_all
  rw [sum_congr rfl hone, sum_const, card_product, card_range, smul_eq_mul, Nat.mul_one]

/-- FRMINIT's frame, counted by kinds. -/
theorem count_frameKinds {s t : State} (h1 : 1 ≤ s.version) (h40 : s.version ≤ 40) (h : exec .frminit s = .next t)
    (k : Kind) : (gridRows (symbolWidth s.version) fun r c => (t.frame.read (256 * r + c)).map Cell.kind).flatten.count
      (some k) = #(drawnCells s.version k) := by
  have hlegal := (legalVersion_iff _).2 ⟨h1, h40⟩
  have hw := symbolWidth_le hlegal
  obtain ⟨hv, -⟩ | ⟨-, u, hu, rfl⟩ := (execFrminit_next s t).1 h
  · rw [hv] at hlegal; cases hlegal
  obtain rfl := (frminitBody_next s u).1 hu
  rw [count_gridRows]
  refine congrArg card (filter_congr fun p hp => ?_)
  obtain ⟨hr, hc⟩ := mem_product.1 hp
  have hread := Memory.read_ofGrid_cell (drawnCell s.version) p.1 p.2 ((mem_range.1 hr).trans_le hw)
    ((mem_range.1 hc).trans_le hw)
  rw [completeOk_frame, frameImage, hread, Option.map_some, Option.some_inj]

/-- Settles O45: the kinds are counted area by area, and the areas' sizes compared with the tables of R220. -/
theorem emptyCellsMatchTheBits : Obligations.EmptyCellsMatchTheBits := by
  intro s t h1 h40 h cells
  rw [count_frameKinds h1 h40 h, count_frameKinds h1 h40 h, count_frameKinds h1 h40 h]
  exact ⟨card_drawnCells_empty h1 h40, card_drawnCells_rsvd h1 h40, card_drawnCells_add h1 h40⟩

/-! PLACE's count check (R286). -/

/-- The traversal of a fresh frame visits as many cells as the symbol has bits. -/
theorem length_order_drawn {v : Nat} (h1 : 1 ≤ v) (hv : v ≤ 40) :
    (order (symbolWidth v) (gridRows (symbolWidth v) (drawnCell v))).length =
      8 * totalCodewords v + remainderBits v := by
  have hcells : (order (symbolWidth v) (gridRows (symbolWidth v) (drawnCell v))).toFinset = drawnCells v .empty := by
    ext ⟨r, c⟩
    rw [List.mem_toFinset, mem_order_iff _ h1, mem_drawnCells, cellAt_gridRows]
    constructor
    · rintro ⟨hr, hc, -, hkind⟩
      rw [if_pos ⟨hr, hc⟩] at hkind
      exact ⟨hr, hc, hkind⟩
    · rintro ⟨hr, hc, hkind⟩
      refine ⟨hr, hc, ?_, by rwa [if_pos ⟨hr, hc⟩]⟩
      rintro rfl
      exact timingColumn_not_empty h1 hr hkind
  rw [← card_drawnCells_empty h1 hv, ← hcells, List.toFinset_card_of_nodup (order_nodup _ h1)]

/-- On a fresh frame PLACE's counts agree (R286). -/
theorem placeBody_ne_internal {s : State} (hs : s.ResultsSound) (hf : s.status.frmv = true)
    (hp : s.status.plcd = false) : placeBody s ≠ .fault .internal := by
  obtain ⟨hv, -⟩ := hs.flags.frmv hf
  obtain ⟨-, wq, -, wf, -⟩ := (memoryWf_iff s).1 hs.memoryWf
  have hw := symbolWidth_le hv
  obtain ⟨h1, h40⟩ := (legalVersion_iff _).1 hv
  have hrows : readFrame s = some (gridRows s.frameWidth (drawnCell s.frameVersion)) :=
    readFrame_of_frameIs s _ wf fun r c hr hc => hs.flags.frame_eq hf hp (hr.trans_le hw) (hc.trans_le hw)
  have hbits : ∀ q, readSequence s (totalCodewords s.frameVersion) = some q →
      (order s.frameWidth (gridRows s.frameWidth (drawnCell s.frameVersion))).length =
        (placedBits s.frameVersion q).length := fun q hq => by
    rw [length_placedBits, ((Memory.readRun_eq_some_iff _ wq _ _ _).1 hq).1]
    exact length_order_drawn h1 h40
  unfold placeBody
  rw [hrows]
  cases hq : readSequence s (totalCodewords s.frameVersion) with
  | none => simp
  | some q => simp [hbits q hq]

/-! Which commands can end in INTERNAL (R286, R406). -/

theorem andThen_ne_internal {o : Result} {f : State → Result} (ho : o ≠ .fault .internal)
    (hf : ∀ u, o = .next u → f u ≠ .fault .internal) : andThen o f ≠ .fault .internal := by
  cases o with
  | next u => exact hf u rfl
  | fault r => exact ho
  | refused r => exact ho

theorem eccbldBody_ne_internal (s : State) : eccbldBody s ≠ .fault .internal := by
  unfold eccbldBody
  dsimp only
  split <;> simp

theorem mselBody_ne_internal (s : State) : mselBody s ≠ .fault .internal := by
  unfold mselBody
  split
  · simp
  · dsimp only
    split <;> simp

theorem execPlace_ne_internal {s : State} (hs : s.ResultsSound) : execPlace s ≠ .fault .internal := by
  unfold execPlace
  cases hready : s.cannotPlace
  · simp only [State.cannotPlace, Bool.or_eq_false_iff, Bool.not_eq_false'] at hready
    obtain ⟨⟨⟨-, hf⟩, hp⟩, -⟩ := hready
    exact andThen_ne_internal (placeBody_ne_internal hs hf hp) fun u _ => by simp
  · simp

theorem encodeBody_ne_internal {s : State} (hs : s.ResultsSound) (hv : legalVersion s.version = true) :
    encodeBody s ≠ .fault .internal := by
  unfold encodeBody
  refine andThen_ne_internal (andThen_ne_internal (andThen_ne_internal (eccbldBody_ne_internal s) fun u₁ _ => ?_)
    fun u₂ h₂ => ?_) fun u₃ _ => mselBody_ne_internal u₃
  · simp [frminitBody]
  · obtain ⟨u₁, h₁, h₂⟩ := (andThen_eq_next _ _ _).1 h₂
    have hv₁ : legalVersion u₁.version = true := by rwa [State.version, (eccbldBody_keepsInputs h₁).config]
    have hs₂ := frminitBody_resultsSound (eccbldBody_resultsSound hs hv h₁) hv₁ h₂
    exact placeBody_ne_internal hs₂ (by rw [frminitBody_status h₂]) (by rw [frminitBody_status h₂])

theorem exec_ne_internal {s : State} (hs : s.ResultsSound) (i : Instr) : exec i s ≠ .fault .internal := by
  cases i <;> unfold exec <;> dsimp only
  case place => exact execPlace_ne_internal hs
  case encode =>
    unfold execEncode
    split
    case isTrue => simp
    case isFalse hv =>
      split
      · simp
      · exact andThen_ne_internal (encodeBody_ne_internal hs (by simpa using hv)) fun u _ => by simp
  case nop | srst | fmtinfo => simp [execNop, execSrst, execFmtinfo]
  case verinfo v =>
    unfold execVerinfo
    split <;> simp
  case frminit =>
    unfold execFrminit
    split <;> simp [frminitBody]
  case eccbld =>
    unfold execEccbld
    split
    · simp
    · exact andThen_ne_internal (eccbldBody_ne_internal s) fun u _ => by simp
  case msel =>
    unfold execMsel
    split
    · simp
    · split
      · simp
      · exact andThen_ne_internal (mselBody_ne_internal s) fun u _ => by simp
  case rsenc | mapply | meval =>
    simp only [execRsenc, execMapply, execMeval]
    split
    · simp
    · split <;> simp

theorem engineTurn_ne_internal {s : State} (hs : s.ResultsSound) : engineTurn s ≠ .fault .internal := by
  unfold engineTurn
  split
  · simp
  · split
    · exact exec_ne_internal hs _
    · simp

theorem perform_ne_internal {s : State} (hs : s.ResultsSound) (e : Event) : perform e s ≠ .fault .internal := by
  cases e with
  | engine => exact engineTurn_ne_internal hs
  | resetInput b => simp [perform]
  | read w a =>
    unfold perform hostRead
    dsimp only
    split
    · simp
    · split
      · simp
      · split <;> simp
  | write w a v =>
    unfold perform hostWrite
    dsimp only
    split
    · simp
    · split <;> simp

/-- Settles O24: only PLACE's count check can end in INTERNAL, and on a fresh frame it never fails. -/
theorem internalIsUnreachable : Obligations.InternalIsUnreachable := by
  intro s hs
  cases ha : s.agenda with
  | nil =>
    rw [step_nil s ha]
    exact engineTurn_ne_internal hs.resultsSound
  | cons e rest =>
    rw [step_cons s e rest ha]
    exact perform_ne_internal hs.resultsSound.outside e

end Sys2Proof.Machine
end

section
/-! PROOFS. Masks, runs, the lines of a matrix and the terms of its penalty (O50 to O54). The terms run down lists; each
is brought to the count over indices that the spec writes. -/

namespace Sys2Proof.Machine

/-- Settles O50: the conditions are maskFn's branches, and the printed corners are evaluated. -/
theorem masksInvertThePrintedCells : Obligations.MasksInvertThePrintedCells := by
  refine ⟨fun i j => ?_, by decide⟩
  simp [maskFn]

/-! Runs (R324). -/

/-- What the first bit of a line does to the runs of the rest: it is a run of its own, or lengthens the first run. -/
theorem runs_cons_cases (b : Bool) (bs : List Bool) :
    (runs bs = [] ∧ runs (b :: bs) = [(b, 1)]) ∨
      (∃ n rest, runs bs = (b, n) :: rest ∧ runs (b :: bs) = (b, n + 1) :: rest) ∨
      (∃ c n rest, runs bs = (c, n) :: rest ∧ b ≠ c ∧ runs (b :: bs) = (b, 1) :: (c, n) :: rest) := by
  rw [runs]
  cases runs bs with
  | nil => exact .inl ⟨rfl, rfl⟩
  | cons t rest =>
    obtain ⟨c, n⟩ := t
    by_cases hbc : b = c
    · subst hbc
      exact .inr (.inl ⟨n, rest, rfl, if_pos rfl⟩)
    · exact .inr (.inr ⟨c, n, rest, rfl, hbc, if_neg hbc⟩)

/-- The runs written out give the line back. -/
theorem flatMap_runs (L : List Bool) : (runs L).flatMap (fun t => List.replicate t.2 t.1) = L := by
  induction L with
  | nil => rfl
  | cons b bs ih =>
    obtain ⟨hbs, h⟩ | ⟨n, rest, hbs, h⟩ | ⟨c, n, rest, hbs, -, h⟩ := runs_cons_cases b bs
    all_goals
      rw [hbs] at ih
      rw [h, ← ih]
      simp [List.replicate_succ]

theorem runs_pos (L : List Bool) : ∀ t ∈ runs L, 1 ≤ t.2 := by
  induction L with
  | nil => simp [runs]
  | cons b bs ih =>
    obtain ⟨-, h⟩ | ⟨n, rest, hbs, h⟩ | ⟨c, n, rest, hbs, -, h⟩ := runs_cons_cases b bs
    · simp [h]
    · rw [hbs, List.forall_mem_cons] at ih
      rw [h, List.forall_mem_cons]
      exact ⟨Nat.le_add_left 1 n, ih.2⟩
    · rw [hbs] at ih
      rw [h, List.forall_mem_cons]
      exact ⟨le_refl 1, ih⟩

/-- Neighbouring runs differ in colour. -/
theorem runs_isChain (L : List Bool) : (runs L).IsChain fun s t => s.1 ≠ t.1 := by
  induction L with
  | nil => simp [runs]
  | cons b bs ih =>
    obtain ⟨-, h⟩ | ⟨n, rest, hbs, h⟩ | ⟨c, n, rest, hbs, hbc, h⟩ := runs_cons_cases b bs
    · rw [h]
      exact List.isChain_singleton _
    · rw [hbs] at ih
      rw [h]
      cases rest with
      | nil => exact List.isChain_singleton _
      | cons t rest => simpa using ih
    · rw [hbs] at ih
      rw [h]
      exact List.isChain_cons_cons.2 ⟨hbc, ih⟩

/-- Settles O51: by induction on the line, run by run. -/
theorem runsAreTheMaximalBlocks : Obligations.RunsAreTheMaximalBlocks := by
  refine fun L => ⟨flatMap_runs L, runs_pos L, runs_length_sum L, fun n a b ha hb => ?_⟩
  obtain ⟨hn, rfl⟩ := List.getElem?_eq_some_iff.1 ha
  obtain ⟨hn', rfl⟩ := List.getElem?_eq_some_iff.1 hb
  exact List.isChain_iff_getElem.1 (runs_isChain L) n hn'

/-! The lines of a matrix (R323). -/

/-- The columns of a matrix whose row r is S r 0, …, S r (w − 1). -/
theorem columns_map_range (w : Nat) (S : Nat → Nat → Bool) (rs : List Nat) :
    columns w (rs.map fun r => (List.range w).map (S r)) = (List.range w).map fun c => rs.map fun r => S r c := by
  induction rs with
  | nil => simp [columns, List.map_const']
  | cons r rs ih =>
    have hcons : columns w ((r :: rs).map fun r => (List.range w).map (S r)) =
        List.zipWith (· :: ·) ((List.range w).map (S r)) (columns w (rs.map fun r => (List.range w).map (S r))) := rfl
    rw [hcons, ih, List.zipWith_map, List.zipWith_self]
    rfl

theorem linesOf_gridRows (w : Nat) (S : Nat → Nat → Bool) :
    linesOf w (gridRows w S) = gridRows w S ++ gridRows w fun c r => S r c :=
  congrArg (gridRows w S ++ ·) (columns_map_range w S (List.range w))

/-! N1 and N4 (R325, R328). -/

/-- A line's N1 points are those of its long runs. -/
theorem n1Line_eq (L : List Bool) :
    n1Line L = (((runs L).filter fun t => decide (5 ≤ t.2)).map fun t => 3 + (t.2 - 5)).sum := by
  unfold n1Line
  induction runs L with
  | nil => rfl
  | cons t rs ih =>
    by_cases ht : 5 ≤ t.2
    · simp [ih, ht]
      omega
    · simp [ih, ht]

theorem penaltyN4_eq (w : Nat) (S : List (List Bool)) : penaltyN4 w S =
    10 * ((((100 * S.flatten.count true / (w * w) : Nat) : Int) - 50).natAbs / 5) := by
  have hdark : darkCount S = S.flatten.count true := List.count_flatten.symm
  rw [penaltyN4, darkPercent, hdark, absDiff]
  congr 2
  omega

/-! N2 (R326). -/

/-- The list over the first n + 1 indices, its head apart. -/
theorem map_range_succ_eq_cons {α : Type} (f : Nat → α) (n : Nat) :
    (List.range (n + 1)).map f = f 0 :: (List.range n).map fun i => f (i + 1) := by
  rw [List.range_succ_eq_map, List.map_cons, List.map_map]
  rfl

/-- The windows of two adjacent rows of n + 1 cells. -/
theorem blocksIn_map_range (f g : Nat → Bool) (n : Nat) :
    blocksIn ((List.range (n + 1)).map f) ((List.range (n + 1)).map g) =
      ((List.range n).map fun c => decide (f c = f (c + 1) ∧ f c = g c ∧ f c = g (c + 1))).count true := by
  induction n generalizing f g with
  | zero => rfl
  | succ n ih =>
    have hrest := ih (fun c => f (c + 1)) fun c => g (c + 1)
    rw [map_range_succ_eq_cons (fun c => f (c + 1)), map_range_succ_eq_cons (fun c => g (c + 1))] at hrest
    rw [map_range_succ_eq_cons f, map_range_succ_eq_cons g, map_range_succ_eq_cons (fun c => f (c + 1)),
      map_range_succ_eq_cons (fun c => g (c + 1)), blocksIn, hrest, map_range_succ_eq_cons, List.count_cons,
      Nat.add_comm]
    simp

/-- The windows of n + 1 rows, pair by pair. -/
theorem blockCount_map_range (row : Nat → List Bool) (n : Nat) :
    blockCount ((List.range (n + 1)).map row) = ((List.range n).map fun r => blocksIn (row r) (row (r + 1))).sum := by
  induction n generalizing row with
  | zero => rfl
  | succ n ih =>
    have hrest := ih fun r => row (r + 1)
    rw [map_range_succ_eq_cons (fun r => row (r + 1))] at hrest
    rw [map_range_succ_eq_cons row, map_range_succ_eq_cons (fun r => row (r + 1)), blockCount, hrest,
      map_range_succ_eq_cons, List.sum_cons]

theorem blockCount_gridRows (w : Nat) (S : Nat → Nat → Bool) :
    blockCount (gridRows w S) = (gridRows (w - 1) fun r c =>
      decide (S r c = S r (c + 1) ∧ S r c = S (r + 1) c ∧ S r c = S (r + 1) (c + 1))).flatten.count true := by
  cases w with
  | zero => rfl
  | succ n =>
    rw [gridRows, blockCount_map_range, List.count_flatten, gridRows, List.map_map]
    exact congrArg List.sum (List.map_congr_left fun r _ => blocksIn_map_range (S r) (S (r + 1)) n)

/-- Settles O52: the lines by induction on the rows, the terms by their counts. -/
theorem windowsAndLinesOfAMatrix : Obligations.WindowsAndLinesOfAMatrix := by
  refine fun w S => ⟨linesOf_gridRows w S, ?_, congrArg (3 * ·) (blockCount_gridRows w S), penaltyN4_eq w _⟩
  rw [penaltyN1, linesOf_gridRows, List.flatMap, List.sum_flatten, List.map_map]
  exact congrArg List.sum (List.map_congr_left fun L _ => n1Line_eq L)

/-! N3 (R327). -/

/-- Behind a run of the search stand the runs after it. -/
theorem getD_runs_after (before : List (Bool × Nat)) (t : Bool × Nat) (after : List (Bool × Nat)) (i : Nat)
    (x : Bool × Nat) : (before.reverse ++ t :: after).getD (before.length + 1 + i) x = after.getD i x := by
  rw [List.getD_eq_getElem?_getD, List.getElem?_append_right (by simp; omega), List.length_reverse,
    show before.length + 1 + i - before.length = i + 1 by omega, List.getElem?_cons_succ, List.getD_eq_getElem?_getD]

/-- In front of a run of the search stand the runs before it, the nearest first. -/
theorem getD_runs_before (before : List (Bool × Nat)) (t : Bool × Nat) (after : List (Bool × Nat)) {i : Nat}
    (x : Bool × Nat) (hi : i < before.length) :
    (before.reverse ++ t :: after).getD (before.length - (i + 1)) x = before.getD i x := by
  rw [List.getD_eq_getElem?_getD, List.getElem?_append_left (by simp; omega), List.getElem?_reverse (by omega),
    show before.length - 1 - (before.length - (i + 1)) = i by omega, List.getD_eq_getElem?_getD]

theorem getD_runs_self (before : List (Bool × Nat)) (t : Bool × Nat) (after : List (Bool × Nat)) (x : Bool × Nat) :
    (before.reverse ++ t :: after).getD before.length x = t := by
  simp [List.getD_eq_getElem?_getD]

/-- The margin beyond the first i runs of a list: its end, or a long run (R327 (3)). -/
theorem margin_drop_iff (u i : Nat) (rs : List (Bool × Nat)) :
    margin u (rs.drop i) = true ↔ rs.length ≤ i ∨ 4 * u ≤ (rs.getD i (false, 0)).2 := by
  have hlen : (rs.drop i).length = rs.length - i := List.length_drop
  have hget : rs.getD i (false, 0) = (rs.drop i).getD 0 (false, 0) := by simp [List.getD_eq_getElem?_getD]
  rw [hget, ← Nat.sub_eq_zero_iff_le, ← hlen]
  cases rs.drop i <;> simp [margin]

theorem margin_before_iff (u i : Nat) (before : List (Bool × Nat)) (t : Bool × Nat) (after : List (Bool × Nat)) :
    margin u (before.drop i) = true ↔ before.length < i + 1 ∨
      4 * u ≤ ((before.reverse ++ t :: after).getD (before.length - (i + 1)) (false, 0)).2 := by
  rw [margin_drop_iff, Nat.lt_succ_iff]
  refine or_congr_right' fun hi => ?_
  rw [getD_runs_before _ _ _ _ (by omega)]

theorem margin_after_iff (u i : Nat) (before : List (Bool × Nat)) (t : Bool × Nat) (after : List (Bool × Nat)) :
    margin u (after.drop i) = true ↔ (before.reverse ++ t :: after).length ≤ before.length + 1 + i ∨
      4 * u ≤ ((before.reverse ++ t :: after).getD (before.length + 1 + i) (false, 0)).2 := by
  rw [margin_drop_iff, getD_runs_after]
  refine or_congr_left ?_
  simp only [List.length_append, List.length_reverse, List.length_cons]
  omega

/-- The search's pattern at a run is R327's at its index. -/
theorem finderLike_eq_patternAt (before : List (Bool × Nat)) (t : Bool × Nat) (after : List (Bool × Nat)) :
    finderLike before t after = patternAt (before.reverse ++ t :: after) before.length := by
  match before, after with
  | [], _ => simp [finderLike, patternAt]
  | [_], _ => simp [finderLike, patternAt]
  | _ :: _ :: _, [] => simp [finderLike, patternAt]
  | _ :: _ :: _, [_] => simp [finderLike, patternAt]
  | b1 :: b2 :: more, a1 :: a2 :: more' =>
    have ht := getD_runs_self (b1 :: b2 :: more) t (a1 :: a2 :: more') (false, 0)
    have hb1 := getD_runs_before (b1 :: b2 :: more) t (a1 :: a2 :: more') (i := 0) (false, 0) (by simp)
    have hb2 := getD_runs_before (b1 :: b2 :: more) t (a1 :: a2 :: more') (i := 1) (false, 0) (by simp)
    have ha1 := getD_runs_after (b1 :: b2 :: more) t (a1 :: a2 :: more') 0 (false, 0)
    have ha2 := getD_runs_after (b1 :: b2 :: more) t (a1 :: a2 :: more') 1 (false, 0)
    have hleft := margin_before_iff b1.2 2 (b1 :: b2 :: more) t (a1 :: a2 :: more')
    have hright := margin_after_iff b1.2 2 (b1 :: b2 :: more) t (a1 :: a2 :: more')
    have hinside : 2 ≤ (b1 :: b2 :: more).length ∧ (b1 :: b2 :: more).length + 2 <
      ((b1 :: b2 :: more).reverse ++ t :: a1 :: a2 :: more').length := by simp; omega
    generalize (b1 :: b2 :: more).reverse ++ t :: a1 :: a2 :: more' = rs at *
    generalize (b1 :: b2 :: more).length = n at *
    simp only [Nat.add_zero, Nat.add_assoc, Nat.reduceAdd, List.getD_cons_zero, List.getD_cons_succ,
      List.drop_succ_cons, List.drop_zero] at hb1 hb2 ha1 ha2 hleft hright
    rw [Bool.eq_iff_iff]
    simp only [finderLike, patternAt, ht, hb1, hb2, ha1, ha2, hleft, hright, hinside, Bool.and_eq_true, Bool.or_eq_true,
      decide_eq_true_eq, beq_iff_eq, or_assoc, and_assoc, true_and]
    exact and_left_comm

/-- The search counts the indices from where it stands. -/
theorem patternCount_eq_countP (before after : List (Bool × Nat)) : patternCount before after =
    (List.range' before.length after.length).countP fun t => patternAt (before.reverse ++ after) t := by
  induction after generalizing before with
  | nil => rfl
  | cons t after ih =>
    rw [patternCount, ih, finderLike_eq_patternAt, List.length_cons, List.length_cons, List.range'_succ,
      List.countP_cons, List.reverse_cons, List.append_assoc, Nat.add_comm]
    rfl

/-- Settles O53: the search for patterns tests R327's conditions at every run index. -/
theorem finderLikePatternsAreCounted : Obligations.FinderLikePatternsAreCounted := by
  intro w S
  rw [penaltyN3, linesOf_gridRows, ← List.sum_map_mul_left]
  refine congrArg List.sum (List.map_congr_left fun L _ => ?_)
  rw [n3Line, patternCount_eq_countP, List.range_eq_range']
  rfl

/-! The bounds (R333). -/

theorem isSquare_gridRows (w : Nat) (S : Nat → Nat → Bool) : isSquare w (gridRows w S) := by
  refine ⟨gridRows_length w S, fun row hr => ?_⟩
  obtain ⟨r, -, rfl⟩ := List.mem_map.1 hr
  simp

/-- Settles O54: each term is largest at w = 177. -/
theorem penaltyIsBounded : Obligations.PenaltyIsBounded := by
  intro w S hw
  have hS := isSquare_gridRows w S
  have hpen := penalty_lt hS hw
  refine ⟨?_, ?_, ?_, penaltyN4_le hS, hpen, fun hword => ?_⟩
  · calc penaltyN1 w (gridRows w S) ≤ (w + w) * (w - 2) := penaltyN1_le hS
      _ ≤ 354 * 175 := Nat.mul_le_mul (by omega) (by omega)
  · calc penaltyN2 (gridRows w S) ≤ 3 * ((w - 1) * (w - 1)) := penaltyN2_le hS
      _ ≤ 3 * (176 * 176) := Nat.mul_le_mul_left 3 (Nat.mul_le_mul (by omega) (by omega))
  · calc penaltyN3 w (gridRows w S) ≤ (w + w) * (40 * ((w + 1) / 2)) := penaltyN3_le hS
      _ ≤ 354 * 3560 := Nat.mul_le_mul (by omega) (by omega)
  · have hnat := congrArg BitVec.toNat hword
    rw [BitVec.toNat_ofNat, Nat.mod_eq_of_lt (by omega)] at hnat
    simp at hnat
    omega

end Sys2Proof.Machine
end

section
/-! PROOFS. MAPPLY, MEVAL and MSEL on a placed frame (O55 to O57). The model finds the format bit of a cell by a search;
no two format positions coincide, so the symbol it computes is SYM(m) module by module, and SYM(m) is the only such
matrix. -/

namespace Sys2Proof.Machine

/-! The format positions (R287). -/

/-- A cell holds at most one format bit. -/
theorem formatBit_unique {w r c j k : Nat} (hw : 21 ≤ w) (hj : j ≤ 14) (hk : k ≤ 14)
    (h1 : fmtPos1 j = (r, c) ∨ fmtPos2 w j = (r, c)) (h2 : fmtPos1 k = (r, c) ∨ fmtPos2 w k = (r, c)) : j = k := by
  unfold fmtPos1 fmtPos2 at *
  split_ifs at * <;> simp only [Prod.mk.injEq] at * <;> omega

theorem fmtBitAt_eq_some_iff {w r c k : Nat} (hw : 21 ≤ w) :
    fmtBitAt w r c = some k ↔ k ≤ 14 ∧ (fmtPos1 k = (r, c) ∨ fmtPos2 w k = (r, c)) := by
  have hfound : ∀ {j}, fmtBitAt w r c = some j → j ≤ 14 ∧ (fmtPos1 j = (r, c) ∨ fmtPos2 w j = (r, c)) := by
    intro j hj
    rw [fmtBitAt_eq_find] at hj
    have hmem := List.mem_range.1 (List.mem_of_find?_eq_some hj)
    have hpos := List.find?_some hj
    simp only [Bool.or_eq_true, beq_iff_eq] at hpos
    exact ⟨by omega, hpos⟩
  refine ⟨hfound, fun ⟨hk, hpos⟩ => ?_⟩
  cases hj : fmtBitAt w r c with
  | none =>
    rw [fmtBitAt_eq_find, List.find?_eq_none] at hj
    exact absurd (by simpa using hpos) (hj k (List.mem_range.2 (by omega)))
  | some j =>
    obtain ⟨hj14, hjpos⟩ := hfound hj
    rw [formatBit_unique hw hj14 hk hjpos hpos]

/-! SYM(m) (R320, R322). -/

theorem symBit_of_format {w r c k : Nat} (hw : 21 ≤ w) (fmt : BitVec 15) (m : Fin 8) (cell : Cell) (hk : k ≤ 14)
    (hpos : fmtPos1 k = (r, c) ∨ fmtPos2 w k = (r, c)) : symBit w fmt m cell r c = fmt.getLsbD k := by
  rw [symBit, (fmtBitAt_eq_some_iff hw).2 ⟨hk, hpos⟩]

/-- The model's symbol of a frame. -/
def symbolOf (w : Nat) (lvl : Level) (m : Fin 8) (F : Nat → Nat → Cell) (r c : Nat) : Bool :=
  symBit w (formatWord lvl m) m (F r c) r c

theorem isSymbol_symbolOf {w : Nat} (hw : 21 ≤ w) (lvl : Level) (m : Fin 8) (F : Nat → Nat → Cell) :
    isSymbol w lvl m F (symbolOf w lvl m F) :=
  ⟨fun _ hk => ⟨symBit_of_format hw _ _ _ hk (.inl rfl), symBit_of_format hw _ _ _ hk (.inr rfl)⟩,
    fun _ _ _ _ h => symBit_of_not_format _ _ _ _ _ _ h⟩

/-- SYM(m) determines every module of the w×w symbol. -/
theorem eq_symbolOf_of_isSymbol {w : Nat} {lvl : Level} {m : Fin 8} {F : Nat → Nat → Cell}
    {S : Nat → Nat → Bool} (hw : 21 ≤ w) (hS : isSymbol w lvl m F S) {r c : Nat} (hr : r < w) (hc : c < w) :
    S r c = symbolOf w lvl m F r c := by
  obtain ⟨hformat, hother⟩ := hS
  by_cases hpos : formatPosition w r c
  · obtain ⟨k, hk, hpos⟩ := hpos
    rw [symbolOf, symBit_of_format hw _ _ _ hk hpos]
    obtain h | h := hpos
    · simpa [h] using (hformat k hk).1
    · simpa [h] using (hformat k hk).2
  · rw [hother r c hr hc hpos, symbolOf, symBit_of_not_format _ _ _ _ _ _ hpos]

theorem gridRows_congr {α : Type} {w : Nat} {F G : Nat → Nat → α}
    (h : ∀ r c, r < w → c < w → F r c = G r c) : gridRows w F = gridRows w G :=
  List.map_congr_left fun r hr => List.map_congr_left fun c hc => h r c (List.mem_range.1 hr) (List.mem_range.1 hc)

section

variable {s : State} {F : Nat → Nat → Cell}

theorem frameWidth_ge (hv : 1 ≤ s.frameVersion) : 21 ≤ s.frameWidth := by
  unfold State.frameWidth symbolWidth
  omega

/-- The symbol that a command computes from the frame's rows is SYM(m). -/
theorem symbol_eq_gridRows (hv : 1 ≤ s.frameVersion) {m : Fin 8} {S : Nat → Nat → Bool}
    (hS : isSymbol s.frameWidth s.job.plcLvl m F S) :
    s.symbol (gridRows s.frameWidth F) m = gridRows s.frameWidth S := by
  rw [State.symbol, symRows_gridRows]
  exact (gridRows_congr fun r c hr hc => eq_symbolOf_of_isSymbol (frameWidth_ge hv) hS hr hc).symm

theorem maskPenalty_eq (hv : 1 ≤ s.frameVersion) {m : Fin 8} {S : Nat → Nat → Bool}
    (hS : isSymbol s.frameWidth s.job.plcLvl m F S) :
    s.maskPenalty (gridRows s.frameWidth F) m = penalty s.frameWidth (gridRows s.frameWidth S) := by
  rw [State.maskPenalty, symbol_eq_gridRows hv hS]

/-- A placed frame that is all there is read. -/
theorem readFrame_eq_gridRows (hwf : s.memoryWf = true) (hF : s.frameIs F) :
    readFrame s = some (gridRows s.frameWidth F) := by
  obtain ⟨-, -, -, hframe, -⟩ := (memoryWf_iff s).1 hwf
  exact readFrame_of_frameIs s F hframe hF

end

/-! MATRIX as the host reads it (R49, R101). -/

/-- A module of the grid reads as the symbol's inside it, else as 0. -/
theorem byteAt_matrixImage {t : State} {w : Nat} {S : Nat → Nat → Bool} (ht : t.matrix = matrixImage (gridRows w S))
    {r c : Nat} (hr : r < 177) (hc : c < 177) :
    t.byteAt (0x20000 + (256 * r + c)) = some (if r < w ∧ c < w ∧ S r c = true then 1 else 0) := by
  rw [byteAt_matrix t (by omega), if_neg (by omega), ht, matrixImage, Memory.read_ofGrid_cell _ r c hr hc,
    bitAt_gridRows, moduleByte_eq]
  by_cases hin : r < w ∧ c < w <;> simp [hin, ← and_assoc]

/-- Two states that differ in MATRIX only agree on every byte outside its window. -/
theorem byteAt_outside_matrix {s t : State} {a : Nat}
    (hother : ∀ u, u ≠ .matrix → windowByte t u = windowByte s u) (ha : a < 0x20000 ∨ 0x2B100 ≤ a) :
    t.byteAt a = s.byteAt a := by
  have hrow : ∀ row ∈ memoryMap, row.target = .matrix → row.base = 0x20000 ∧ row.size = 45312 := by decide
  refine byteAt_congr fun row hmem hlow hhigh => ?_
  by_cases ht : row.target = .matrix
  · obtain ⟨hbase, hsize⟩ := hrow row hmem ht
    omega
  · rw [hother _ ht]

/-- Showing a symbol and writing PEN leave every buffer and table but MATRIX as it was (R331, R334). -/
theorem windowByte_completeOk_showSymbol (S : List (List Bool)) (m : Fin 8) (pen : Vector Word 8) (s : State)
    (u : Target) (hu : u ≠ .matrix) :
    windowByte (completeOk (showSymbol S m { s with pen := pen })) u = windowByte s u := by
  cases u with
  | matrix => exact absurd rfl hu
  | _ => rfl

/-- Settles O55: the frame is read, and the symbol shown is SYM(m). -/
theorem mapplyShowsTheMaskedSymbol : Obligations.MapplyShowsTheMaskedSymbol := by
  intro s m F hwf hp h1 h40 hF
  have hS := isSymbol_symbolOf (frameWidth_ge h1) s.job.plcLvl m F
  refine ⟨_, _, (execMapply_next m s _).2 (.inr ⟨hp, _, readFrame_eq_gridRows hwf hF, rfl⟩), rfl, hS,
    fun r c hr hc => byteAt_matrixImage (congrArg matrixImage (symbol_eq_gridRows h1 hS)) hr hc,
    fun a ha => byteAt_outside_matrix (windowByte_completeOk_showSymbol _ m s.pen s) ha⟩

/-! Penalties as words (R329, R333). -/

theorem symbolPenalty_lt {s : State} (h40 : s.frameVersion ≤ 40) (S : Nat → Nat → Bool) :
    penalty s.frameWidth (gridRows s.frameWidth S) < 1415219 :=
  penalty_lt (isSquare_gridRows _ S) (by unfold State.frameWidth symbolWidth; omega)

theorem getElem_pen_set (pen : Vector Word 8) (m m' : Fin 8) (x : Word) :
    (pen.set m x)[m'] = if m' = m then x else pen[m'] := by
  by_cases h : m' = m
  · subst h
    simp
  · have hval : m.val ≠ m'.val := fun he => h (Fin.ext he.symm)
    simp [h, hval]

/-- Settles O56: the frame is read, and the penalty of SYM(m) fits its word. -/
theorem mevalScoresTheMaskedSymbol : Obligations.MevalScoresTheMaskedSymbol := by
  intro s m F S hwf hp h1 h40 hF hS
  have hlt := symbolPenalty_lt h40 S
  refine ⟨_, (execMeval_next m s _).2 (.inr ⟨hp, _, readFrame_eq_gridRows hwf hF, rfl⟩), rfl, ?_, fun m' hm => ?_,
    fun a => byteAt_congr fun row _ _ _ => ?_⟩
  · rw [completeOk_pen, getElem_pen_set, if_pos rfl, maskPenalty_eq h1 hS, BitVec.toNat_ofNat,
      Nat.mod_eq_of_lt (by omega)]
    rfl
  · rw [completeOk_pen, getElem_pen_set, if_neg hm]
  · cases row.target <;> rfl

/-! The choice among the candidates (R334, R335). -/

/-- Among pairs of rising ids the search finds the lowest penalty, and the lowest id among equals. -/
theorem firstMinimum_some_spec {b best : Fin 8 × Nat} {cands : List (Fin 8 × Nat)}
    (hsorted : (b :: cands).Pairwise fun x y => x.1 < y.1) (h : firstMinimum (some b) cands = some best) :
    best ∈ b :: cands ∧ ∀ c ∈ b :: cands, best.2 ≤ c.2 ∧ (c.1 < best.1 → best.2 < c.2) := by
  induction cands generalizing b with
  | nil =>
    obtain rfl := Option.some.inj h
    simp
  | cons c cs ih =>
    obtain ⟨hb, hcs⟩ := List.pairwise_cons.1 hsorted
    have hbc := hb c (by simp)
    rw [firstMinimum] at h
    by_cases hlt : c.2 < b.2
    · rw [if_pos hlt] at h
      obtain ⟨hmem, hmin⟩ := ih hcs h
      have hc := (hmin c (by simp)).1
      exact ⟨List.mem_cons_of_mem _ hmem, List.forall_mem_cons.2 ⟨⟨by omega, fun _ => by omega⟩, hmin⟩⟩
    · rw [if_neg hlt] at h
      have hbcs : (b :: cs).Pairwise fun x y => x.1 < y.1 :=
        List.pairwise_cons.2 ⟨fun x hx => hb x (List.mem_cons_of_mem _ hx), (List.pairwise_cons.1 hcs).2⟩
      obtain ⟨hmem, hmin⟩ := ih hbcs h
      obtain ⟨hble, hbfirst⟩ := hmin b (by simp)
      have hc : best.2 ≤ c.2 ∧ (c.1 < best.1 → best.2 < c.2) :=
        ⟨by omega, fun hcbest => by have := hbfirst (hbc.trans hcbest); omega⟩
      obtain ⟨hb', hcs'⟩ := List.forall_mem_cons.1 hmin
      refine ⟨?_, List.forall_mem_cons.2 ⟨hb', List.forall_mem_cons.2 ⟨hc, hcs'⟩⟩⟩
      rw [List.mem_cons] at hmem ⊢
      exact hmem.imp_right (List.mem_cons_of_mem _)

theorem firstMinimum_none_spec {best : Fin 8 × Nat} {cands : List (Fin 8 × Nat)}
    (hsorted : cands.Pairwise fun x y => x.1 < y.1) (h : firstMinimum none cands = some best) :
    best ∈ cands ∧ ∀ c ∈ cands, best.2 ≤ c.2 ∧ (c.1 < best.1 → best.2 < c.2) := by
  cases cands with
  | nil => cases h
  | cons c cs => exact firstMinimum_some_spec hsorted h

theorem candidates_sorted (s : State) (rows : List (List Cell)) :
    (s.candidates rows).Pairwise fun x y => x.1 < y.1 := by
  have hids : maskIds.Pairwise (· < ·) := by decide
  exact List.pairwise_map.2 (hids.filter s.maskEnabled)

theorem mem_candidates {s : State} {rows : List (List Cell)} {c : Fin 8 × Nat} :
    c ∈ s.candidates rows ↔ s.maskEnabled c.1 = true ∧ c.2 = s.maskPenalty rows c.1 := by
  simp only [State.candidates, List.mem_map, List.mem_filter, mem_maskIds, true_and]
  constructor
  · rintro ⟨m, hm, rfl⟩
    exact ⟨hm, rfl⟩
  · rintro ⟨hm, hc⟩
    exact ⟨c.1, hm, Prod.ext rfl hc.symm⟩

/-- With a candidate, a first lowest one is found. -/
theorem exists_firstMinimum {s : State} (rows : List (List Cell)) (hm : s.config.maskEn ≠ 0) :
    ∃ best, firstMinimum none (s.candidates rows) = some (best, s.maskPenalty rows best) ∧
      s.maskEnabled best = true ∧ ∀ m, s.maskEnabled m = true → s.maskPenalty rows best ≤ s.maskPenalty rows m ∧
        (m < best → s.maskPenalty rows best < s.maskPenalty rows m) := by
  obtain ⟨⟨best, n⟩, hbest⟩ :=
    Option.ne_none_iff_exists'.1 (firstMinimum_ne_none none _ (.inr (candidates_ne_nil rows hm)))
  obtain ⟨hmem, hmin⟩ := firstMinimum_none_spec (candidates_sorted s rows) hbest
  obtain ⟨hen, hn⟩ := mem_candidates.1 hmem
  obtain rfl : n = s.maskPenalty rows best := hn
  exact ⟨best, hbest, hen, fun m hm => hmin (m, s.maskPenalty rows m) (mem_candidates.2 ⟨hm, rfl⟩)⟩

/-- Writing penalties mask by mask into a penalty file. -/
theorem getElem_foldl_pen_set (P : Fin 8 → Nat) (ms : List (Fin 8)) (pen : Vector Word 8) (m : Fin 8) :
    ((ms.map fun m => (m, P m)).foldl (fun pen c => pen.set c.1 (BitVec.ofNat 32 c.2)) pen)[m] =
      if m ∈ ms then BitVec.ofNat 32 (P m) else pen[m] := by
  induction ms generalizing pen with
  | nil => rfl
  | cons m' ms ih =>
    rw [List.map_cons, List.foldl_cons, ih, getElem_pen_set]
    by_cases hm : m ∈ ms
    · simp [hm]
    · by_cases he : m = m' <;> simp [hm, he]

/-- PEN after MSEL: the candidates' penalties, "not evaluated" for the others (R334). -/
theorem getElem_penaltyFile_candidates (s : State) (rows : List (List Cell)) (m : Fin 8) :
    (penaltyFile (s.candidates rows))[m] =
      if s.maskEnabled m = true then BitVec.ofNat 32 (s.maskPenalty rows m) else notEvaluated := by
  have hnone : noPenalties[m] = notEvaluated := by simp [noPenalties]
  rw [penaltyFile, State.candidates, getElem_foldl_pen_set, hnone]
  simp [mem_maskIds]

/-- Settles O57: the search ends at the first lowest candidate, and its symbol is shown. -/
theorem mselShowsTheFirstLowestPenalty : Obligations.MselShowsTheFirstLowestPenalty := by
  intro s F S hwf hm hp h1 h40 hF hS P
  have hpen : ∀ m, s.maskPenalty (gridRows s.frameWidth F) m = P m := fun m => maskPenalty_eq h1 (hS m)
  obtain ⟨best, hbest, hen, hmin⟩ := exists_firstMinimum (gridRows s.frameWidth F) hm
  simp only [hpen] at hmin
  refine ⟨_, best, (execMsel_next s _).2 (.inr (.inr ⟨hm, hp, _, (mselBody_next s _).2
      ⟨_, readFrame_eq_gridRows hwf hF, .inr ⟨_, hbest, rfl⟩⟩, rfl⟩)), rfl, hen, hmin, fun m => ?_,
    fun r c hr hc => byteAt_matrixImage (congrArg matrixImage (symbol_eq_gridRows h1 (hS best))) hr hc,
    fun a ha => byteAt_outside_matrix (windowByte_completeOk_showSymbol _ best _ s) ha⟩
  rw [completeOk_pen, showSymbol_pen, getElem_penaltyFile_candidates, hpen]
  rfl

end Sys2Proof.Machine
end

section
/-! PROOFS. NOP and ENCODE (O29, O58, O59). Completing a command touches only DONE and what is in flight, which no body
reads; so bodies run one after another and completed at the end are commands run one after another. For a written DBUF
each body answers: the data is there, the frame is fresh, and the placed frame is all there. -/

namespace Sys2Proof.Machine

/-- Settles O29: NOP has no effect besides its completion. -/
theorem nopOnlyCompletes : Obligations.NopOnlyCompletes := fun s => (execNop_next s _).2 rfl

/-! Completion and the bodies (R372, R403). -/

/-- What a body answers, completed. -/
def completed (o : Result) : Result := andThen o fun u => .next (completeOk u)

theorem completed_completed (o : Result) : completed (completed o) = completed o := by
  cases o <;> rfl

/-- A completed body before a command whose effect is `g`: the completion can wait until after `g`. -/
theorem andThen_completed {o : Result} {f g : State → Result}
    (hf : ∀ u, o = .next u → f (completeOk u) = completed (g u)) :
    andThen (completed o) f = completed (andThen o g) := by
  cases o with
  | next u => exact hf u rfl
  | fault r => rfl
  | refused r => rfl

@[simp] theorem completeOk_version (s : State) : (completeOk s).version = s.version := rfl
@[simp] theorem completeOk_frameVersion (s : State) : (completeOk s).frameVersion = s.frameVersion := rfl
@[simp] theorem completeOk_frameWidth (s : State) : (completeOk s).frameWidth = s.frameWidth := rfl
@[simp] theorem completeOk_cannotPlace (s : State) : (completeOk s).cannotPlace = s.cannotPlace := rfl
@[simp] theorem readFrame_completeOk (s : State) : readFrame (completeOk s) = readFrame s := rfl
@[simp] theorem readSequence_completeOk (s : State) (n : Nat) :
    readSequence (completeOk s) n = readSequence s n := rfl
@[simp] theorem candidates_completeOk (s : State) (rows : List (List Cell)) :
    (completeOk s).candidates rows = s.candidates rows := rfl

theorem frminitBody_completeOk (s : State) : frminitBody (completeOk s) = completed (frminitBody s) := by
  unfold frminitBody completed
  rfl

theorem placeBody_completeOk (s : State) : placeBody (completeOk s) = completed (placeBody s) := by
  unfold placeBody
  rw [readFrame_completeOk]
  cases readFrame s with
  | none => rfl
  | some rows =>
    dsimp only
    rw [readSequence_completeOk, completeOk_frameVersion, completeOk_frameWidth]
    cases readSequence s (totalCodewords s.frameVersion) with
    | none => rfl
    | some seq => dsimp only; split <;> rfl

theorem mselBody_completeOk (s : State) : mselBody (completeOk s) = completed (mselBody s) := by
  simp only [mselBody, readFrame_completeOk, candidates_completeOk]
  cases readFrame s with
  | none => rfl
  | some rows => dsimp only; cases firstMinimum none (s.candidates rows) <;> rfl

/-! The commands once their checks have passed, each but ECCBLD after another's completion. -/

theorem execEccbld_of_legal {s : State} (hv : legalVersion s.version = true) :
    exec .eccbld s = completed (eccbldBody s) := by
  simp only [exec, execEccbld, hv]
  rfl

theorem execFrminit_completeOk {s : State} (hv : legalVersion s.version = true) :
    exec .frminit (completeOk s) = completed (frminitBody s) := by
  rw [← completed_completed, ← frminitBody_completeOk]
  simp only [exec, execFrminit, completeOk_version, hv]
  rfl

theorem execPlace_completeOk {s : State} (hs : s.cannotPlace = false) :
    exec .place (completeOk s) = completed (placeBody s) := by
  rw [← completed_completed, ← placeBody_completeOk]
  simp only [exec, execPlace, completeOk_cannotPlace, hs]
  rfl

theorem execMsel_completeOk {s : State} (hm : s.config.maskEn ≠ 0) (hp : s.status.plcd = true) :
    exec .msel (completeOk s) = completed (mselBody s) := by
  rw [← completed_completed, ← mselBody_completeOk]
  simp only [exec, execMsel, completeOk_config, completeOk_status, if_neg hm, hp]
  rfl

theorem execEncode_of_legal {s : State} (hv : legalVersion s.version = true) (hm : s.config.maskEn ≠ 0) :
    exec .encode s = completed (encodeBody s) := by
  simp only [exec, execEncode, if_neg hm, hv]
  rfl

/-- Once the bodies of ECCBLD and FRMINIT have run, PLACE's check passes (R285). -/
theorem cannotPlace_after_frminitBody {s u₁ u₂ : State} (h₁ : eccbldBody s = .next u₁) (h₂ : frminitBody u₁ = .next u₂) :
    u₂.cannotPlace = false := by
  obtain ⟨d, -, rfl⟩ := (eccbldBody_next s u₁).1 h₁
  obtain rfl := (frminitBody_next _ u₂).1 h₂
  simp [State.cannotPlace]

/-- Settles O58: each command's check passes where the body before it left off, and its completion can wait for the
last one's. -/
theorem encodeIsTheFourCommands : Obligations.EncodeIsTheFourCommands := by
  intro s h1 h40 hm
  have hv := (legalVersion_iff _).2 ⟨h1, h40⟩
  have hfrminit : ∀ u, eccbldBody s = .next u → exec .frminit (completeOk u) = completed (frminitBody u) :=
    fun u h => execFrminit_completeOk (by rwa [State.version, (eccbldBody_keepsInputs h).config])
  have hplace : ∀ u, andThen (eccbldBody s) frminitBody = .next u →
      exec .place (completeOk u) = completed (placeBody u) := fun u h => by
    obtain ⟨u₁, h₁, h₂⟩ := (andThen_eq_next _ _ _).1 h
    exact execPlace_completeOk (cannotPlace_after_frminitBody h₁ h₂)
  have hmsel : ∀ u, andThen (andThen (eccbldBody s) frminitBody) placeBody = .next u →
      exec .msel (completeOk u) = completed (mselBody u) := fun u h => by
    obtain ⟨u₂, h₁₂, h₃⟩ := (andThen_eq_next _ _ _).1 h
    obtain ⟨u₁, h₁, h₂⟩ := (andThen_eq_next _ _ _).1 h₁₂
    have hk := ((eccbldBody_keepsInputs h₁).trans (frminitBody_keepsInputs h₂)).trans (placeBody_keepsInputs h₃)
    exact execMsel_completeOk (hk.config ▸ hm) (by rw [placeBody_status h₃])
  rw [execEncode_of_legal hv hm, execEccbld_of_legal hv, andThen_completed hfrminit, andThen_completed hplace,
    andThen_completed hmsel, encodeBody]

/-! The bodies on written data (R225, R281, R285). -/

/-- Data that is all there is read. -/
theorem exists_readData {s : State} {off n : Nat} (hs : s.dbuf.wf = true)
    (hread : ∀ i, i < n → s.dbuf.read (off + i) ≠ none) : ∃ d, readData s off n = some d :=
  ⟨_, readRun_of_cells _ hs off n (fun i => (s.dbuf.read (off + i)).getD 0) fun i hi => by
    obtain ⟨b, hb⟩ := Option.ne_none_iff_exists'.1 (hread i hi)
    rw [hb, Option.getD_some]⟩

/-- A frame that is all there is read. -/
theorem exists_readFrame {s : State} (hs : s.frame.wf = true)
    (hread : ∀ r c, r < s.frameWidth → c < s.frameWidth → ∃ cell, s.frame.read (256 * r + c) = some cell) :
    ∃ rows, readFrame s = some rows :=
  ⟨_, readFrame_of_frameIs s (fun r c => (s.frame.read (256 * r + c)).getD emptyCell) hs fun r c hr hc => by
    obtain ⟨cell, hcell⟩ := hread r c hr hc
    simp only [hcell, Option.getD_some]⟩

/-- The state in which ENCODE reaches PLACE: the codewords q in SEQ and a fresh frame of CONFIG's version (R225, R281,
R372). -/
def State.built (s : State) (q : List Byte) : State :=
  { s with
    seq := s.seq.writeRun 0 q
    frame := frameImage s.version
    status := { s.status with seqv := true, frmv := true, plcd := false, matv := false }
    job := ⟨s.config.version, s.config.level, s.config.version, s.job.plcLvl⟩
    seqLen := ⟨BitVec.ofNat 12 (totalCodewords s.version), BitVec.ofNat 12 (dataCodewords s.version s.config.level)⟩
    pen := noPenalties }

/-- With a legal version and the data written, ECCBLD's and FRMINIT's bodies leave the symbol's codewords and a fresh
frame. -/
theorem eccbldBody_frminitBody_of_data {s : State} (hwf : s.memoryWf = true) (hv : legalVersion s.version = true)
    (hdata : ∀ i, i < dataCodewords s.version s.config.level → s.dbuf.read i ≠ none) :
    ∃ q, q.length = totalCodewords s.version ∧ andThen (eccbldBody s) frminitBody = .next (s.built q) := by
  obtain ⟨hdbuf, -⟩ := (memoryWf_iff s).1 hwf
  obtain ⟨d, hd⟩ := exists_readData hdbuf fun i hi => by rw [Nat.zero_add]; exact hdata i hi
  have hlength := codewordSequence_length _ d (readData_length hdbuf hd)
  exact ⟨_, hlength.trans (codewords_of_version hv s.config.level).1,
    (andThen_eq_next _ _ _).2 ⟨_, (eccbldBody_next s _).2 ⟨d, hd, rfl⟩, (frminitBody_next _ _).2 rfl⟩⟩

/-- On a fresh frame with the symbol's codewords in SEQ, PLACE's body answers, and every cell of the frame is still
there. -/
theorem placeBody_built {s : State} {q : List Byte} (hwf : s.memoryWf = true) (hv : legalVersion s.version = true)
    (hq : q.length = totalCodewords s.version) :
    ∃ u, placeBody (s.built q) = .next u ∧ ∃ rows, readFrame u = some rows := by
  obtain ⟨-, hseq, -⟩ := (memoryWf_iff s).1 hwf
  obtain ⟨h1, h40⟩ := (legalVersion_iff _).1 hv
  have hw := symbolWidth_le hv
  have hframe : (frameImage s.version).wf = true := Memory.wf_ofGrid _
  have hread : ∀ r c, r < 177 → c < 177 → (frameImage s.version).read (256 * r + c) = some (drawnCell s.version r c) :=
    fun r c hr hc => Memory.read_ofGrid_cell _ r c hr hc
  have hrows : readFrame (s.built q) = some (gridRows (symbolWidth s.version) (drawnCell s.version)) :=
    readFrame_of_frameIs (s.built q) _ hframe fun r c hr hc => hread r c (hr.trans_le hw) (hc.trans_le hw)
  have hcodewords : readSequence (s.built q) (totalCodewords s.version) = some q := by
    rw [← hq]
    exact readRun_writeRun _ hseq 0 q
  have hcount : (order (symbolWidth s.version) (gridRows (symbolWidth s.version) (drawnCell s.version))).length =
      (placedBits s.version q).length := by
    rw [length_placedBits, hq, length_order_drawn h1 h40]
  have hplace := (placeBody_next (s.built q) _).2 ⟨_, q, hrows, hcodewords, hcount, rfl⟩
  refine ⟨_, hplace, exists_readFrame (Memory.wf_writeAll _ hframe _) fun r c hr hc => ?_⟩
  obtain ⟨cell, hcell, -⟩ := placed_cell hframe hv hread hcount (hr.trans_le hw) (hc.trans_le hw)
  exact ⟨cell, hcell⟩

/-- Two states that agree on everything the host reads but SEQ up to n, FRAME and MATRIX agree on every byte outside
these (R101). -/
theorem byteAt_outside_results {s t : State} {n a : Nat}
    (hother : ∀ u, u ≠ .seq → u ≠ .frame → u ≠ .matrix → windowByte t u = windowByte s u)
    (hrest : ∀ i, n ≤ i → t.seq.read i = s.seq.read i) (hseq : ¬ (0x02000 ≤ a ∧ a < 0x02000 + n))
    (hframe : ¬ (0x10000 ≤ a ∧ a < 0x1B100)) (hmatrix : ¬ (0x20000 ≤ a ∧ a < 0x2B100)) :
    t.byteAt a = s.byteAt a := by
  have hrow : ∀ row ∈ memoryMap, (row.target = .seq → row.base = 0x02000) ∧
      (row.target = .frame → row.base = 0x10000 ∧ row.size = 45312) ∧
      (row.target = .matrix → row.base = 0x20000 ∧ row.size = 45312) := by decide
  refine byteAt_congr fun row hmem hlow hhigh => ?_
  obtain ⟨hbaseSeq, hrowFrame, hrowMatrix⟩ := hrow row hmem
  by_cases hs : row.target = .seq
  · have hbase := hbaseSeq hs
    rw [hs]
    exact hrest _ (by omega)
  · refine congrFun (hother _ hs (fun hf => ?_) fun hm => ?_) _
    · have := hrowFrame hf
      omega
    · have := hrowMatrix hm
      omega

/-- Settles O59: on written data each body answers, and the candidate that MSEL's body finds is shown. -/
theorem encodeCompletesTheWholeSymbol : Obligations.EncodeCompletesTheWholeSymbol := by
  intro s hwf h1 h40 hm hdata
  have hv := (legalVersion_iff _).2 ⟨h1, h40⟩
  obtain ⟨-, hseq, -⟩ := (memoryWf_iff s).1 hwf
  obtain ⟨q, hq, hbuilt⟩ := eccbldBody_frminitBody_of_data hwf hv hdata
  obtain ⟨u, hplace, rows, hrows⟩ := placeBody_built hwf hv hq
  have hmu : u.config.maskEn ≠ 0 := by rwa [(placeBody_keepsInputs hplace).config]
  obtain ⟨best, hbest, hcandidate, -⟩ := exists_firstMinimum rows hmu
  have hmsel := (mselBody_next u _).2 ⟨rows, hrows, .inr ⟨_, hbest, rfl⟩⟩
  have hbody : encodeBody s = .next _ :=
    (andThen_eq_next _ _ _).2 ⟨u, (andThen_eq_next _ _ _).2 ⟨_, hbuilt, hplace⟩, hmsel⟩
  obtain ⟨_, _, -, -, -, rfl⟩ := (placeBody_next _ u).1 hplace
  refine ⟨_, (execEncode_next s _).2 (.inr (.inr ⟨hv, hm, _, hbody, rfl⟩)), rfl, hcandidate,
    fun a => byteAt_outside_results (fun w hnotSeq hnotFrame hnotMatrix => ?_) fun i hi => ?_⟩
  · cases w with
    | seq => exact absurd rfl hnotSeq
    | frame => exact absurd rfl hnotFrame
    | matrix => exact absurd rfl hnotMatrix
    | _ => rfl
  · exact read_writeRun_zero_of_le hseq (hq.trans_le hi)

end Sys2Proof.Machine
end

section
/-! PROOFS. How commands complete and fail, and when the interrupt output rises (O8, O9, O10, O12). Each is read off the
case lists of what a command, an event and a host access can do; the error conditions are the commands' checks. -/

namespace Sys2Proof.Machine

/-! Completions and errors (R401, R403, R404). -/

/-- SRST has no check, so it never ends in an error (R371). -/
theorem ne_srst_of_check {i : Instr} {s : State} {e : ErrCode} (h : i.check s = some e) : i ≠ .srst := by
  rintro rfl
  cases h

/-- Settles O8: a reset, an error and a success each end BUSY and leave the model's own fields alone. -/
theorem completionSetsDoneAndRecordsErrors : Obligations.CompletionSetsDoneAndRecordsErrors := by
  intro i s t h
  obtain ⟨rfl, rfl⟩ | ⟨e, he, rfl⟩ | ⟨hi, -, u, hu, rfl⟩ := exec_cases h
  · exact ⟨rfl, by simp [State.reset], fun hne => absurd rfl hne, rfl, rfl, rfl, rfl⟩
  · have hi := ne_srst_of_check he
    have hcode : e ≠ .none := by
      rintro rfl
      simpa using check_code he
    exact ⟨rfl, by simp [hi], fun _ => .inr ⟨rfl, rfl, hcode⟩, rfl, rfl, rfl, rfl⟩
  · have hk := effect_keepsInputs hu
    exact ⟨rfl, by simp [hi], fun _ => .inl ⟨hk.err, hk.errinfo⟩, hk.agenda, hk.resetPin, hk.response, hk.freeCount⟩

/-- Settles O9: only a failed check sets ERR, and it is recorded by `raiseError`. -/
theorem errorsOnlyRecordThemselves : Obligations.ErrorsOnlyRecordThemselves := by
  intro i s t h hs ht
  obtain ⟨-, rfl⟩ | ⟨e, he, rfl⟩ | ⟨-, -, u, hu, rfl⟩ := exec_cases h
  · cases ht
  · exact ⟨rfl, check_code he⟩
  · have hu' : u.status.err = false := (effect_keepsInputs hu).err.trans hs
    cases hu'.symm.trans ht

/-- RSENC's operands are out of range (R208). -/
theorem badRsOperands_iff (k nr off : Nat) :
    badRsOperands k nr off = true ↔ k = 0 ∨ nr = 0 ∨ 255 < k + nr ∨ 4096 < off + k := by
  simp [badRsOperands, or_assoc]

/-- PLACE's precondition fails (R285). -/
theorem cannotPlace_iff (s : State) : s.cannotPlace = true ↔
    s.status.seqv = false ∨ s.status.frmv = false ∨ s.status.plcd = true ∨ s.job.seqVer ≠ s.job.frmVer := by
  simp [State.cannotPlace, or_assoc]

theorem legalVersion_eq_false_iff (v : Nat) : legalVersion v = false ↔ v = 0 ∨ 40 < v := by
  rw [← Bool.not_eq_true, legalVersion_iff]
  omega

/-- Settles O10: each condition is the first failing check of the command it stops. -/
theorem commandErrorsAndTheirPriority : Obligations.CommandErrorsAndTheirPriority := by
  intro s
  refine ⟨fun k nr h => ?rsenc, fun v h => ?verinfo, fun h => ?version, fun h => ?place, fun hp => ?plcd,
    fun hm => ?mask⟩
  case rsenc => exact (execRsenc_next k nr s _).2 (.inl ⟨(badRsOperands_iff ..).2 h, rfl⟩)
  case verinfo => exact (execVerinfo_next v s _).2 (.inl ⟨h, rfl⟩)
  case version =>
    have hv := (legalVersion_eq_false_iff _).2 h
    exact ⟨(execEccbld_next s _).2 (.inl ⟨hv, rfl⟩), (execFrminit_next s _).2 (.inl ⟨hv, rfl⟩),
      (execEncode_next s _).2 (.inl ⟨hv, rfl⟩)⟩
  case place => exact (execPlace_next s _).2 (.inl ⟨(cannotPlace_iff s).2 h, rfl⟩)
  case plcd =>
    exact ⟨fun m => (execMapply_next m s _).2 (.inl ⟨hp, rfl⟩), fun m => (execMeval_next m s _).2 (.inl ⟨hp, rfl⟩),
      fun hm => (execMsel_next s _).2 (.inr (.inl ⟨hm, hp, rfl⟩))⟩
  case mask =>
    exact ⟨(execMsel_next s _).2 (.inl ⟨hm, rfl⟩), fun h1 h40 =>
      (execEncode_next s _).2 (.inr (.inl ⟨(legalVersion_iff _).2 ⟨h1, h40⟩, hm, rfl⟩))⟩

/-! The interrupt output (R410). -/

theorem irq_iff (s : State) : s.irq = true ↔ s.status.done = true ∧ s.config.ie = true := by
  simp [State.irq]

/-- Without a write to CONFIG and without DONE rising, IRQ does not rise. -/
theorem irq_of_same_config {s t : State} (hc : t.config = s.config) (hd : t.status.done = true → s.status.done = true)
    (h : t.irq = true) : s.irq = true := by
  obtain ⟨hdone, hie⟩ := (irq_iff t).1 h
  exact (irq_iff s).2 ⟨hd hdone, hc ▸ hie⟩

/-- The engine's turn completes the command in flight, or nothing is in flight and nothing happens (R403, R417). -/
theorem engineTurn_completes {s t : State} (h : engineTurn s = .next t) :
    t = s ∨ (s.inflight ≠ none ∧ t.inflight = none) := by
  obtain ⟨-, rfl⟩ | ⟨x, hx, ⟨i, -, hi⟩ | ⟨-, rfl⟩⟩ := engineTurn_next s t h
  · exact .inl rfl
  · exact .inr ⟨by simp [hx], (completionSetsDoneAndRecordsErrors i s t hi).1⟩
  · exact .inr ⟨by simp [hx], rfl⟩

/-- A change of the reset input clears DONE or does nothing (R450). -/
theorem irq_of_irq_changeReset {b : Bool} {s : State} (h : (changeReset b s).irq = true) : s.irq = true := by
  unfold changeReset at h
  split_ifs at h
  · cases h
  · exact h

/-- A write's effect makes IRQ 1 only where it was 1 already, or by setting IE while DONE = 1 (R34, R36, R400). -/
theorem irq_of_irq_writeTarget {s : State} {tgt : Target} {off : Nat} {w : Width} {v : Word}
    (h : (writeTarget s tgt off w v).irq = true) :
    s.irq = true ∨ (tgt = .config ∧ v.getLsbD 24 = true ∧ s.status.done = true) := by
  cases tgt with
  | config =>
    rw [writeTarget] at h
    obtain ⟨-, hw⟩ | ⟨-, hw⟩ := writeInput_cases s { s with config := ConfigReg.ofWord v } <;> rw [hw] at h
    · obtain ⟨hd, hie⟩ := (irq_iff _).1 h
      exact .inr ⟨rfl, hie, hd⟩
    · exact .inl h
  | rsSrc | dbuf =>
    rw [writeTarget] at h
    obtain ⟨-, hw⟩ | ⟨-, hw⟩ := writeInput_cases s _ <;> rw [hw] at h <;> exact .inl h
  | cmd =>
    rw [writeTarget] at h
    obtain ⟨-, -, hw⟩ | ⟨-, hw⟩ := submit_cases v s <;> rw [hw] at h
    · cases h
    · exact .inl h
  | status => exact .inl (irq_of_same_config (t := acknowledge v s) rfl (fun hd => (Bool.and_eq_true_iff.1 hd).1) h)
  | _ => exact .inl h

/-- A legal access is aligned, and a row with its target serves it (R102). -/
theorem serves_of_legalAccess {isWrite : Bool} {w : Width} {a : Addr} {t : Target} {off : Nat}
    (h : legalAccess isWrite w a = some (t, off)) :
    a.toNat % w.bytes = 0 ∧ ∃ row ∈ memoryMap, row.target = t ∧ row.Serves isWrite w a.toNat := by
  obtain ⟨halign, row, hmem, hserves⟩ := not_not.1 (mt (legalAccess_eq_none_iff isWrite w a).2 (by simp [h]))
  cases h.symm.trans (legalAccess_of_serves halign hmem hserves)
  exact ⟨halign, row, hmem, rfl, hserves⟩

/-- CONFIG is accessed as the word at 0x00004 only (R101, R102). -/
theorem legalAccess_config {isWrite : Bool} {w : Width} {a : Addr} {off : Nat}
    (h : legalAccess isWrite w a = some (.config, off)) : w = .word ∧ a = 0x00004 := by
  obtain ⟨-, row, hmem, htarget, hbase, hbound, hwidth, -⟩ := serves_of_legalAccess h
  have hrow : ∀ row ∈ memoryMap, row.target = .config → row = ⟨0x00004, 4, .config, true, registerWidths⟩ := by decide
  cases hrow row hmem htarget
  obtain rfl : w = .word := by simpa [registerWidths] using hwidth
  have ha : a.toNat = 4 := Nat.le_antisymm (Nat.le_of_add_le_add_right hbound) hbase
  exact ⟨rfl, BitVec.eq_of_toNat_eq ha⟩

/-- Settles O12: of a step's events only the engine's turn lets DONE rise, and only a CONFIG write changes IE. -/
theorem irqRisesOnlyOnCompletionOrEnable : Obligations.IrqRisesOnlyOnCompletionOrEnable := by
  refine ⟨irq_iff, fun s t h hs ht => ?_⟩
  have hlow : s.takeEvent.irq ≠ true := Bool.eq_false_iff.1 hs
  have hturn : engineTurn s.takeEvent = .next t → s.inflight ≠ none ∧ t.inflight = none := fun h =>
    (engineTurn_completes h).resolve_left fun heq => hlow (heq ▸ ht)
  obtain h | ⟨e, rest, ha, h⟩ := step_eq_takeEvent h
  · exact .inl (hturn h)
  obtain ⟨-, h⟩ | ⟨b, -, rfl⟩ | ⟨w, a, -, -, h⟩ | ⟨w, a, v, rfl, -, h⟩ := perform_next e _ t h
  · exact .inl (hturn h)
  · exact absurd (irq_of_irq_changeReset ht) hlow
  · obtain ⟨v, n, rfl⟩ := hostRead_next w a _ t h
    exact absurd ht hlow
  · obtain ⟨tgt, off, hl, rfl⟩ := (hostWrite_next w a v _ t).1 h
    obtain hirq | ⟨rfl, hie, hd⟩ := irq_of_irq_writeTarget (s := s.takeEvent) ht
    · exact absurd hirq hlow
    · obtain ⟨rfl, rfl⟩ := legalAccess_config hl
      exact .inr ⟨v, rest, ha, hie, hd⟩

end Sys2Proof.Machine
end

section
/-! PROOFS. Reset, and what a command in flight holds off (O13, O15, O17, O37): writes to the block's inputs are
discarded, reads of its results draw free values, and the encoders stop at a DBUF byte that nothing has written. -/

namespace Sys2Proof.Machine

/-! Reset (R371, R450). -/

/-- When the reset input is asserted, or was, its change gives the state its reset value. -/
theorem changeReset_of_asserted {b : Bool} {s : State} (h : b = true ∨ s.resetPin = true) :
    changeReset b s = { applyReset s with resetPin := b } :=
  if_pos ((Bool.or_eq_true _ _).mpr h)

/-- Settles O17: both changes of the input, and SRST, are `applyReset`; an access is refused before its address is
looked at. -/
theorem resetInputAndSrstReset : Obligations.ResetInputAndSrstReset := by
  refine ⟨fun s => ?_, fun s hp => ?_, fun s w a v hp => ⟨?_, ?_⟩, fun s => (execSrst_next s _).2 rfl⟩
  · rw [perform, changeReset_of_asserted (.inl rfl)]
    rfl
  · rw [perform, changeReset_of_asserted (.inr hp)]
    rfl
  · exact if_pos hp
  · exact if_pos hp

/-! Writes while BUSY = 1 (R461). -/

/-- The targets that a command reads its inputs from, and CMD. -/
def Target.isInput (t : Target) : Bool := t ∈ [Target.config, .cmd, .rsSrc, .dbuf]

/-- A write to an input is discarded while BUSY = 1. -/
theorem writeTarget_of_busy {s : State} {t : Target} (off : Nat) (w : Width) (v : Word) (hb : s.busy = true)
    (ht : t.isInput = true) : writeTarget s t off w v = discard s := by
  have hinput : ∀ u, writeInput s u = discard s := fun u => if_pos hb
  cases t with
  | config | rsSrc | dbuf => exact hinput _
  | cmd => exact if_pos (by rw [hb, Bool.true_or])
  | _ => cases ht

/-- The writable rows are those of the inputs and STATUS's (R101). -/
theorem writable_rows : ∀ row ∈ memoryMap, row.writable = true → row.target.isInput = true ∨
    (row.base = 0x0000C ∧ row.size = 4) := by
  decide

/-- Settles O13: the row that serves the write is an input's, so the write is discarded. -/
theorem inputWritesWhileBusyAreDiscarded : Obligations.InputWritesWhileBusyAreDiscarded := by
  intro s w a v hp hb haccess
  have hlegal : a.toNat % w.bytes = 0 ∧ (∃ row ∈ memoryMap, row.Serves true w a.toNat) ∧
      (a.toNat ≤ 0x00008 ∨ 0x00014 ≤ a.toNat) := by
    obtain ⟨rfl, hregister⟩ | ⟨halign, hwindow⟩ := haccess
    · have haddr : a.toNat = 0x00004 ∨ a.toNat = 0x00008 ∨ a.toNat = 0x00014 := by
        obtain rfl | rfl | rfl := hregister <;> decide
      have halign : a.toNat % Width.word.bytes = 0 := by
        show a.toNat % 4 = 0
        omega
      exact ⟨halign, (exists_serves_write_iff .word halign).2 (.inl ⟨rfl, by omega⟩), by omega⟩
    · exact ⟨halign, (exists_serves_write_iff w halign).2 (.inr hwindow), by omega⟩
  obtain ⟨halign, ⟨row, hmem, hserves⟩, hnotStatus⟩ := hlegal
  have hinput : row.target.isInput = true := by
    obtain ht | ⟨hbase, hsize⟩ := writable_rows row hmem hserves.write
    · exact ht
    · have hlow := hserves.base
      have hhigh := hserves.bound
      have hpos := w.bytes_pos
      omega
  rw [perform_write_of_legal v hp (legalAccess_of_serves halign hmem hserves), writeTarget_of_busy _ w v hb hinput]
  rfl

/-! Reads while BUSY = 1 (R462). -/

/-- The result registers and the result buffers. -/
def Target.isResult : Target → Bool
  | .result | .job | .bchOut | .seqLen | .pen _ | .seq | .pbuf | .frame | .matrix => true
  | _ => false

/-- A result may be anything while BUSY = 1. -/
theorem readTarget_of_busy {s : State} {t : Target} (off : Nat) (w : Width) (hb : s.busy = true)
    (ht : t.isResult = true) : readTarget s t off w = .anyValue := by
  cases t <;> cases ht <;> exact if_pos hb

theorem perform_read_of_released {w : Width} {a : Addr} {s : State} (hp : s.resetPin = false) :
    perform (.read w a) s = hostRead w a s :=
  if_neg (Bool.eq_false_iff.1 hp)

/-- A legal read that may find anything answers some value and draws one. -/
theorem perform_read_of_anyValue {w : Width} {a : Addr} {s : State} {t : Target} {off : Nat}
    (hp : s.resetPin = false) (hl : legalAccess false w a = some (t, off)) (hv : readTarget s t off w = .anyValue) :
    ∃ v, perform (.read w a) s = .next { s with response := .data v, freeCount := s.freeCount + 1 } := by
  refine ⟨w.truncate (Config.freeRead s.freeCount), ?_⟩
  rw [perform_read_of_released hp]
  simp only [hostRead, hl, hv]
  rfl

/-- A legal read that finds STATUS with free valid flags answers it so and draws one value. -/
theorem perform_read_of_anyValid {w : Width} {a : Addr} {s : State} {t : Target} {off : Nat}
    (hp : s.resetPin = false) (hl : legalAccess false w a = some (t, off)) (hv : readTarget s t off w = .anyValid) :
    perform (.read w a) s = .next { s with
      response := .data (statusWord true (s.status.withFreeValid (Config.freeRead s.freeCount)))
      freeCount := s.freeCount + 1 } := by
  rw [perform_read_of_released hp]
  simp only [hostRead, hl, hv]
  rfl

/-- The rows of the map that are no result's (R101). -/
theorem rows_without_result : ∀ row ∈ memoryMap, row.target.isResult = false → row.base + row.size ≤ 0x00018 ∨
    (0x01000 ≤ row.base ∧ row.base + row.size ≤ 0x02000) ∨
      (0x03100 ≤ row.base ∧ row.base + row.size ≤ 0x03300) := by
  decide

/-- An aligned read of a result register or buffer, while BUSY = 1. -/
theorem perform_read_of_result {w : Width} {a : Addr} {s : State} (hp : s.resetPin = false) (hb : s.busy = true)
    (halign : a.toNat % w.bytes = 0)
    (hrange : (w = .word ∧ (0x00018 ≤ a.toNat ∧ a.toNat < 0x00028 ∨ 0x00040 ≤ a.toNat ∧ a.toNat < 0x00060)) ∨
      (0x02000 ≤ a.toNat ∧ a.toNat < 0x03100) ∨ (0x10000 ≤ a.toNat ∧ a.toNat < 0x1B100) ∨
        (0x20000 ≤ a.toNat ∧ a.toNat < 0x2B100)) :
    ∃ v, perform (.read w a) s = .next { s with response := .data v, freeCount := s.freeCount + 1 } := by
  obtain ⟨row, hmem, hserves⟩ := (exists_serves_read_iff w halign).2
    (hrange.imp (fun ⟨hw, ha⟩ => ⟨hw, by omega⟩) (by omega))
  have hresult : row.target.isResult = true := by
    by_contra hnot
    have hrow := rows_without_result row hmem (Bool.eq_false_of_not_eq_true hnot)
    have hlow := hserves.base
    have hhigh := hserves.bound
    have hpos := w.bytes_pos
    omega
  exact perform_read_of_anyValue hp (legalAccess_of_serves halign hmem hserves) (readTarget_of_busy _ w hb hresult)

/-- DBUF and the constant tables, whose bytes read as they are whether BUSY is 1 or not. -/
def Target.isSteady (t : Target) : Bool := t ∈ [Target.dbuf, .exp, .log]

theorem littleEndian_singleton (b : Byte) : littleEndian [b] = b.setWidth 32 := by
  simp [littleEndian]

theorem windowBytes_one {s : State} {t : Target} {off : Nat} {b : Byte} (h : windowByte s t off = some b) :
    windowBytes s t off 1 = some [b] := by
  simp only [windowBytes, h]

/-- A byte of DBUF or of a table that is there is found, whatever BUSY is. -/
theorem readTarget_of_steady {s : State} {t : Target} {off : Nat} {b : Byte} (ht : t.isSteady = true)
    (h : windowByte s t off = some b) : readTarget s t off .byte = .value (b.setWidth 32) := by
  have hrun : windowBytes s t off Width.byte.bytes = some [b] := windowBytes_one h
  rw [← littleEndian_singleton]
  cases t with
  | dbuf => rw [readTarget, bufferValue, hrun]
  | exp | log => rw [readTarget, tableValue, hrun, Option.getD_some]
  | _ => cases ht

/-- The rows of DBUF and the tables lie inside the block's window and are read by bytes too (R101, R102). -/
theorem steady_rows : ∀ row ∈ memoryMap, row.target.isSteady = true →
    row.base + row.size ≤ 2 ^ 18 ∧ row.widths.contains .byte = true := by
  decide

/-- A byte read of DBUF or of a table answers the byte, where there is one. -/
theorem perform_read_of_steady {s : State} {row : MapRow} {i : Nat} {b : Byte} (hp : s.resetPin = false)
    (hmem : row ∈ memoryMap) (ht : row.target.isSteady = true) (hi : i < row.size)
    (h : windowByte s row.target i = some b) :
    perform (.read .byte (BitVec.ofNat 18 (row.base + i))) s = .next { s with response := .data (b.setWidth 32) } := by
  obtain ⟨hend, hwidth⟩ := steady_rows row hmem ht
  have haddr : (BitVec.ofNat 18 (row.base + i)).toNat = row.base + i := by
    rw [BitVec.toNat_ofNat, Nat.mod_eq_of_lt (by omega)]
  have hserves : row.Serves false .byte (row.base + i) :=
    ⟨Nat.le_add_right _ _, Nat.add_le_add_left hi row.base, hwidth, rfl⟩
  have hl : legalAccess false .byte (BitVec.ofNat 18 (row.base + i)) = some (row.target, i) := by
    rw [legalAccess_of_serves (Nat.mod_one _) hmem (by rwa [haddr]), haddr, Nat.add_sub_cancel_left]
  exact perform_read_of_value hp hl (readTarget_of_steady ht h)

/-- Settles O15: constants and inputs are found as values, STATUS with free valid flags, and results are free. -/
theorem readsWhileBusy : Obligations.ReadsWhileBusy := by
  intro s hp hb
  have hread : ∀ {a : Addr} {t : Target} {v : Word}, legalAccess false .word a = some (t, 0) →
      readTarget s t 0 .word = .value v → perform (.read .word a) s = .next { s with response := .data v } :=
    fun hl hv => perform_read_of_value hp hl hv
  refine ⟨hread (t := .id) (by decide) rfl, hread (t := .config) (by decide) rfl, hread (t := .cmd) (by decide) rfl,
    hread (t := .errinfo) (by decide) rfl, hread (t := .rsSrc) (by decide) rfl, fun i b hi h => ?dbuf,
    fun i hi => ?exp, fun i hi => ?log,
    ⟨_, perform_read_of_anyValid (t := .status) (off := 0) hp (by decide) (if_pos hb), ?status⟩,
    fun a halign hrange => perform_read_of_result hp hb halign (.inl ⟨rfl, by omega⟩),
    fun w a halign hrange => perform_read_of_result hp hb halign (.inr hrange)⟩
  case dbuf =>
    exact perform_read_of_steady (row := ⟨0x01000, 4096, .dbuf, true, bufferWidths⟩) hp (by decide) rfl hi h
  case exp =>
    exact perform_read_of_steady (row := ⟨0x03100, 256, .exp, false, bufferWidths⟩) hp (by decide) rfl hi rfl
  case log =>
    have hword : BitVec.ofNat 32 (logEntry (BitVec.ofNat 8 i)) =
        (BitVec.ofNat 8 (logEntry (BitVec.ofNat 8 i))).setWidth 32 := by
      rw [BitVec.setWidth_ofNat_of_le_of_lt (by decide) (logEntry_lt _)]
    rw [hword]
    exact perform_read_of_steady (row := ⟨0x03200, 256, .log, false, bufferWidths⟩) hp (by decide) rfl hi rfl
  case status =>
    obtain ⟨hbusy, hdone, herr, hovr, -, -, -, -, hhigh⟩ :=
      statusWord_fields true (s.status.withFreeValid (Config.freeRead s.freeCount))
    exact ⟨hbusy, hdone, herr, hovr, hhigh⟩

/-! Unwritten data (R452). -/

/-- Data that misses a byte is not read. -/
theorem readData_eq_none {s : State} {off n : Nat} (hs : s.dbuf.wf = true)
    (hmissing : ∃ i, i < n ∧ s.dbuf.read (off + i) = none) : readData s off n = none := by
  obtain ⟨i, hi, hnone⟩ := hmissing
  refine Option.eq_none_iff_forall_ne_some.2 fun d hd => ?_
  obtain ⟨hlen, hread⟩ := (Memory.readRun_eq_some_iff _ hs off n d).1 hd
  have hend := List.getElem?_eq_none_iff.1 ((hread i hi).symm.trans hnone)
  omega

/-- ECCBLD's body stops where it reads an unwritten byte. -/
theorem eccbldBody_of_unwritten {s : State} (h : readData s 0 (dataCodewords s.version s.config.level) = none) :
    eccbldBody s = .fault (.unwritten .dbuf) := by
  rw [dataCodewords] at h
  simp only [eccbldBody, h]

/-- Settles O37: the checks pass, and the data is not all there; ENCODE begins with ECCBLD's body. -/
theorem unwrittenDataStopsTheEncoders : Obligations.UnwrittenDataStopsTheEncoders := by
  intro s hwf
  obtain ⟨hdbuf, -⟩ := (memoryWf_iff s).1 hwf
  refine ⟨fun k nr hk hnr hsum hoff hmissing => ?_, fun h1 h40 hmissing => ?_⟩
  · have hrange : badRsOperands k nr s.rsSrc.toNat = false :=
      Bool.eq_false_of_not_eq_true fun h => by
        rw [badRsOperands_iff] at h
        omega
    simp only [exec, execRsenc, hrange, readData_eq_none hdbuf hmissing, Bool.false_eq_true, if_false]
  · have hv := (legalVersion_iff _).2 ⟨h1, h40⟩
    have hbody : eccbldBody s = .fault (.unwritten .dbuf) :=
      eccbldBody_of_unwritten (readData_eq_none hdbuf (by simpa only [Nat.zero_add] using hmissing))
    refine ⟨?_, fun hm => ?_⟩
    · rw [execEccbld_of_legal hv, hbody]
      rfl
    · rw [execEncode_of_legal hv hm, encodeBody, hbody]
      rfl

end Sys2Proof.Machine
end
